-- ==== Sys2Proof/Config.lean ====
section
/-! DEFINITION. The parameters of 00_scope.md R6: the ones the source fixes, and the OPEN ones as constants with no
body, of which nothing can be proved but what their use shows. Two OPEN parameters are arguments of the model
instead of constants: `HOST_PROGRAM` is the state's `hostProgram` (log 4), and `LATCH_COMMIT_EDGE` is an argument of
the observation, which the state carries for both of its values (log 8). -/

namespace Sys2Proof.Config

/-- `ADDR_W` (R6): the width of the transmitted address field. -/
def addrW : Nat := 4

/-- `ADDR_ARG_W` (R6, D26): the width of the host's address argument, whose bits 7:4 are ignored. -/
def addrArgW : Nat := 8

/-- `DATA_W` (R6): the width of the data field. -/
def dataW : Nat := 8

/-- `FRAME_LEN` (R6): the bits of one command, the address field and then the data field. -/
def frameLen : Nat := addrW + dataW

/-- `T_LATCH_HOLD_MIN` (R6, R117), in nanoseconds. The literal is unaudited (I1). Log 6. -/
def tLatchHoldMin : Nat := 250

/-- By how much the hold the block applies exceeds the minimum. OPEN (D10). Log 6. -/
opaque tLatchHoldSlack : Nat

/-- `T_LATCH_HOLD` (R6): the hold the block applies, in nanoseconds. OPEN with the premise
`T_LATCH_HOLD >= T_LATCH_HOLD_MIN`, which this form builds in: it is the minimum and an uninterpreted rest. Log 6. -/
def tLatchHold : Nat := tLatchHoldMin + tLatchHoldSlack

/-- `T_SETUP` (R6, R118): OPEN, unconstrained and unchecked (D11). Log 7. -/
opaque tSetup : Nat

/-- `T_HOLD` (R6, R118): OPEN, unconstrained and unchecked (D11). Log 7. -/
opaque tHold : Nat

/-- `T_CLK_LOW` (R6, R118): OPEN, unconstrained and unchecked (D11). Log 7. -/
opaque tClkLow : Nat

/-- `T_CLK_HIGH` (R6, R118): OPEN, unconstrained and unchecked (D11). Log 7. -/
opaque tClkHigh : Nat

/-- `T_GAP` (R6, R125): OPEN, unconstrained and unchecked (D11). Log 7. -/
opaque tGap : Nat

/-- `MODE_SELECT_LEVEL` (R6, D24): the level of a pin outside the block. OPEN and not modelled. Log 7. -/
opaque modeSelectLevel : Bool

end Sys2Proof.Config
end

