-- ==== Sys2Proof/Word.lean ====
section
/-! DEFINITION. The words of the machine: bytes, nibbles, a register's contents with the spec's `⊥`, and the
level of a wire with the spec's `X` (00_scope.md R9, R11). Every value is unsigned (R9). -/

namespace Sys2Proof

/-- An 8-bit quantity: the two arguments of SEND, `SR`, `DREG`, a receiver register. -/
abbrev Byte := BitVec 8

/-- A 4-bit quantity: the transmitted address, `CNT`, the phase code. -/
abbrev Nibble := BitVec 4

/-- What a register holds (R11): `undef` is the spec's `⊥`, "holds no value", which the reset action writes (R111)
and which is a value of the spec's own and no missing reset value; `val a` is the value `a`. Log 1. -/
inductive Reg (α : Type) where
  | undef
  | val (a : α)
  deriving DecidableEq, Repr

/-- The level of a pin (R11): 0, 1, or `X`, "the model holds no value for the pin". -/
inductive Level where
  | lo
  | hi
  | x
  deriving DecidableEq, Repr

/-- The field in progress, the one bit of `FLD` (R19): `ADDR` is 0 and `DATA` is 1. -/
inductive Field where
  | addr
  | data
  deriving DecidableEq, Repr

end Sys2Proof
end

