-- ==== Sys2Proof/Syntax.lean ====
section
/-! DEFINITION. The eleven operations of the opcode table (30_encoding.md R65), one constructor a row, and the
host's commands (00_scope.md R13) and their source form (R68). -/

namespace Sys2Proof

/-- The operations of 30_encoding.md R65: the host command SEND and the ten sequencer micro-operations. -/
inductive Instr where
  /-- R71: `SEND addr, data`. Both arguments are 8 bits; only `addr[3:0]` is transmitted (R56). -/
  | send (addr data : Byte)
  /-- R80: no command waiting. -/
  | idle
  /-- R81: take the waiting command. -/
  | accept
  /-- R82: hold LATCH low before the frame. -/
  | latLoStart
  /-- R83: start a bit cell, CLOCK low. -/
  | clkLo
  /-- R84: DATA to the current least-significant bit. -/
  | datSet
  /-- R85: shift the value right by one. -/
  | shift
  /-- R86: end a bit cell, CLOCK high, and advance the bit count. -/
  | clkHi
  /-- R87: LATCH high after all 12 bits. -/
  | latHi
  /-- R88: hold LATCH high. -/
  | latHold
  /-- R89: LATCH low, and complete the command. -/
  | latLoEnd
  deriving DecidableEq, Repr

/-- The mnemonic, as the opcode table spells it (R69). -/
def Instr.mnemonic : Instr → String
  | .send _ _ => "SEND"
  | .idle => "IDLE"
  | .accept => "ACCEPT"
  | .latLoStart => "LAT_LO_START"
  | .clkLo => "CLK_LO"
  | .datSet => "DAT_SET"
  | .shift => "SHIFT"
  | .clkHi => "CLK_HI"
  | .latHi => "LAT_HI"
  | .latHold => "LAT_HOLD"
  | .latLoEnd => "LAT_LO_END"

/-- A command: one (address, data) pair sent by one SEND (R13). `HOST_PROGRAM` is a list of these (D23). -/
structure Command where
  addr : Byte
  data : Byte
  deriving DecidableEq, Repr

/-- The SEND that sends a command. -/
def Command.instr (c : Command) : Instr := .send c.addr c.data

/-- A SEND line as it is written, before its literals are checked (R68). -/
structure SendStmt where
  addr : Nat
  data : Nat
  deriving DecidableEq, Repr

end Sys2Proof
end

