-- ==== Sys2Proof/WellFormed.lean ====
section
/-! DEFINITION. The checks on what a host may write (30_encoding.md R68, R69): the two literals of a SEND line, and
which operations a host program may name. Every term of `Instr` has fields of exactly the spec's widths, and no
command word is illegal (R57), so `Instr` needs no further check. -/

namespace Sys2Proof

/-- R68: "A literal outside 0 to 255 is refused." -/
def literalOk (n : Nat) : Bool := decide (n ≤ 255)

/-- R68: both literals of the line are from 0 to 255. An address from 16 to 255 is accepted. -/
def SendStmt.wf (p : SendStmt) : Bool := literalOk p.addr && literalOk p.data

/-- The command of a well-formed line; an ill-formed line is refused (R68). -/
def SendStmt.command (p : SendStmt) : Option Command :=
  if p.wf then some { addr := BitVec.ofNat 8 p.addr, data := BitVec.ofNat 8 p.data } else none

/-- R69: "no program text names them": of the eleven operations a host program may hold only SEND. -/
def Instr.programmable : Instr → Bool
  | .send _ _ => true
  | .idle => false
  | .accept => false
  | .latLoStart => false
  | .clkLo => false
  | .datSet => false
  | .shift => false
  | .clkHi => false
  | .latHi => false
  | .latHold => false
  | .latLoEnd => false

/-- A list of operations as the commands of a host program, refused if it names a micro-operation (R69). -/
def programOf : List Instr → Option (List Command)
  | [] => some []
  | .send a d :: rest => (programOf rest).map fun cs => { addr := a, data := d } :: cs
  | _ :: _ => none

end Sys2Proof
end

