-- ==== Sys2Proof/Decode.lean ====
section
/-! DEFINITION. The three encodings of 30_encoding.md: the host command word CMD16 (R55), the micro-operation
selector USEL5 (R63) and the serial frame FRAME12 (R36, R58). Decoding is total and rejects by name; encoding is
written from the same tables. -/

namespace Sys2Proof

/-! ### Phase codes (R63) -/

/-- `PH` code 0000. -/
@[simp] abbrev Phase.idle : Nibble := 0b0000#4
/-- `PH` code 0001. -/
@[simp] abbrev Phase.latLoStart : Nibble := 0b0001#4
/-- `PH` code 0010. -/
@[simp] abbrev Phase.clkLo : Nibble := 0b0010#4
/-- `PH` code 0011. -/
@[simp] abbrev Phase.datSet : Nibble := 0b0011#4
/-- `PH` code 0100. -/
@[simp] abbrev Phase.shift : Nibble := 0b0100#4
/-- `PH` code 0101. -/
@[simp] abbrev Phase.clkHi : Nibble := 0b0101#4
/-- `PH` code 0110. -/
@[simp] abbrev Phase.latHi : Nibble := 0b0110#4
/-- `PH` code 0111. -/
@[simp] abbrev Phase.latHold : Nibble := 0b0111#4
/-- `PH` code 1000. -/
@[simp] abbrev Phase.latLoEnd : Nibble := 0b1000#4

/-- R64: `PH` codes 1001 to 1111 are reserved. -/
def phaseReserved (ph : Nibble) : Bool := decide (9 ≤ ph.toNat)

/-! ### Code words -/

/-- An encoded operation: a host command word (16 bits) or a micro-operation selector (5 bits) (R54). -/
inductive CodeWord where
  | cmd16 (w : BitVec 16)
  | usel5 (w : BitVec 5)
  deriving DecidableEq, Repr

/-- Why a code word stands for no operation. -/
inductive Reject where
  /-- R64: the selector's `PH` is one of the reserved codes 9 to 15. -/
  | reservedPhase (code : Nibble)
  deriving DecidableEq, Repr

/-- The selector `{cmd_valid, PH[3:0]}` (R63). -/
def selectorWord (valid : Bool) (ph : Nibble) : BitVec 5 := BitVec.ofBool valid ++ ph

/-- One row of R63's table. -/
structure SelectorRow where
  op : Instr
  mtch : BitVec 5
  mask : BitVec 5
  deriving DecidableEq, Repr

/-- R63's table, row by row. -/
def selectorRows : List SelectorRow :=
  [ { op := .idle,       mtch := 0x00#5, mask := 0x1F#5 },
    { op := .accept,     mtch := 0x10#5, mask := 0x1F#5 },
    { op := .latLoStart, mtch := 0x01#5, mask := 0x0F#5 },
    { op := .clkLo,      mtch := 0x02#5, mask := 0x0F#5 },
    { op := .datSet,     mtch := 0x03#5, mask := 0x0F#5 },
    { op := .shift,      mtch := 0x04#5, mask := 0x0F#5 },
    { op := .clkHi,      mtch := 0x05#5, mask := 0x0F#5 },
    { op := .latHi,      mtch := 0x06#5, mask := 0x0F#5 },
    { op := .latHold,    mtch := 0x07#5, mask := 0x0F#5 },
    { op := .latLoEnd,   mtch := 0x08#5, mask := 0x0F#5 } ]

/-- Whether a selector word falls under a row. -/
def SelectorRow.covers (r : SelectorRow) (w : BitVec 5) : Bool := w &&& r.mask == r.mtch

/-- Decoding of USEL5 (R63, R65): one of the ten micro-operations, or the reserved phase code by name. -/
def decodeSelector (w : BitVec 5) : Except Reject Instr :=
  match selectorRows.find? (fun r => r.covers w) with
  | some r => .ok r.op
  | none => .error (.reservedPhase (w.extractLsb' 0 4))

/-- The command in a host command word (R55): `cmd_addr = CMD16[7:0]` and `cmd_data = CMD16[15:8]`. -/
def commandOfWord (w : BitVec 16) : Command := { addr := w.extractLsb' 0 8, data := w.extractLsb' 8 8 }

/-- Decoding of CMD16: every word is a SEND (R57). -/
def decodeCommand (w : BitVec 16) : Instr := (commandOfWord w).instr

/-- Decoding of a code word: total, and rejecting by name. -/
def decode : CodeWord → Except Reject Instr
  | .cmd16 w => .ok (decodeCommand w)
  | .usel5 w => decodeSelector w

/-! ### Encoding -/

/-- CMD16 of a command (R55): data in bits 15:8, the address argument in bits 7:0. -/
def encodeCommand (addr data : Byte) : BitVec 16 := data ++ addr

/-- USEL5 of a micro-operation (R63): the row's match, with `v` in the bit that the row's mask leaves free.
An operation without a row has no selector. -/
def encodeSelector (v : Bool) (i : Instr) : Option (BitVec 5) :=
  (selectorRows.find? (fun r => r.op == i)).map fun r =>
    if v then r.mtch ||| ~~~ r.mask else r.mtch

/-- The code word of an operation. `v` is the don't-care bit of a selector outside IDLE (R63); IDLE, ACCEPT and SEND
ignore it. -/
def encode (v : Bool) : Instr → CodeWord
  | .send a d => .cmd16 (encodeCommand a d)
  | i => .usel5 ((encodeSelector v i).getD 0)

/-! ### The opcode table's words -/

/-- The code word that a table row's bits stand for: a row of at most 8 bits is a selector (the table gives it 5),
and a row of 9 to 16 bits, or of none, is a host command word (the table's only row that fixes no bit). A number
with a bit above the format's width is no word of it. Log 15. -/
def codeWordOfTable (nbits w : Nat) : Option CodeWord :=
  if nbits = 0 ∨ (8 < nbits ∧ nbits ≤ 16) then
    if w < 65536 then some (.cmd16 (BitVec.ofNat 16 w)) else none
  else if nbits ≤ 8 then
    if w < 32 then some (.usel5 (BitVec.ofNat 5 w)) else none
  else none

/-- The instruction the decoder reads from a table row's bits, none where it refuses. -/
def decodeTableWord (nbits w : Nat) : Option Instr :=
  match codeWordOfTable nbits w with
  | none => none
  | some c => match decode c with
    | .ok i => some i
    | .error _ => none

/-! ### The serial frame FRAME12 -/

/-- The transmitted address `a[3:0]` (R38, R56). -/
def txAddr (a : Byte) : Nibble := a.extractLsb' 0 4

/-- The frame word `W = {d[7:0], a[3:0]}` (R36). -/
def frameWord (a d : Byte) : BitVec 12 := d ++ txAddr a

/-- `f_i` (R36): `a[i]` for `0 <= i <= 3` and `d[i - 4]` for `4 <= i <= 11`. -/
def frameBit (a d : Byte) (i : Nat) : Bool := if i ≤ 3 then a.getLsbD i else d.getLsbD (i - 4)

/-- The frame `f_0 .. f_11` in time order (R36, R58). -/
def frame (a d : Byte) : List Bool := (List.range Config.frameLen).map (frameBit a d)

/-- The number whose bits, least-significant first, are given. -/
def bitsToNat : List Bool → Nat
  | [] => 0
  | b :: bs => b.toNat + 2 * bitsToNat bs

/-- The frame word that twelve received bits make, the first bit least significant (R36, R40). -/
def frameWordOf (bits : List Bool) : BitVec 12 := BitVec.ofNat 12 (bitsToNat bits)

/-- The address field of a frame word, `W[3:0]` (R37). -/
def frameAddr (w : BitVec 12) : Nibble := w.extractLsb' 0 4

/-- The data field of a frame word, `W[11:4]` (R37). -/
def frameData (w : BitVec 12) : Byte := w.extractLsb' 4 8

end Sys2Proof
end

