-- ==== Sys2Proof/Machine/State.lean ====
section
/-! DEFINITION. The state of the machine as plain data (10_state.md R14, R25, R28, R33): the block, the receiver that
observes its wires, and the host with its inputs. INVENTORY.md lists each field with its rule and reset value. -/

namespace Sys2Proof.Machine

open Sys2Proof

/-- The three output lines (R22). -/
inductive Pin where
  | clock
  | data
  | latch
  deriving DecidableEq, Repr

/-- The events of the trace, the only thing that can be observed of the block (R8). -/
inductive Event where
  /-- `Accept(a, d)`: a command is taken, with its two 8-bit arguments. -/
  | accept (a d : Byte)
  /-- `Write(p, b)`: pin `p` is driven to level `b`. -/
  | write (p : Pin) (b : Bool)
  /-- `Hold(t)`: the latch-hold delay of `t` nanoseconds. -/
  | hold (t : Nat)
  /-- `Done`: the command completes. -/
  | done
  /-- `Reset`: the block was reset, and from here its pins are `X`. -/
  | reset
  deriving DecidableEq, Repr

/-- The LATCH edge on which the reference receiver commits a frame, `LATCH_COMMIT_EDGE` (R6, R40, D16). -/
inductive CommitEdge where
  | rise
  | fall
  deriving DecidableEq, Repr

/-- The receiver's register file as the observation knows it (R28, R40). -/
inductive RecvRegs where
  /-- The registers written so far: (address, byte) cells, addresses strictly rising and below 16. A register that is
  not listed holds `⊥` (R28). -/
  | known (cells : List Host.Cell)
  /-- R40: "the observation says nothing of `RecvReg` from then on". -/
  | unspecified
  deriving DecidableEq, Repr

/-- The reference receiver (R40): its list `S` of samples, oldest first, and its register file. -/
structure Receiver where
  samples : List Level
  regs : RecvRegs
  deriving DecidableEq, Repr

/-- Who takes a step, and with which `rst` input (R7, R26, R79). Plain data of the model's own: log 2. -/
inductive Turn where
  /-- The host firmware's next move. -/
  | host
  /-- A sequencer step with the given `rst` level. -/
  | sequencer (rst : Bool)
  deriving DecidableEq, Repr

/-- The state of the machine. -/
structure State where
  /-- `SR`: the value being shifted out (R16). -/
  sr : Reg Byte
  /-- `DREG`: the pending data argument (R17). -/
  dreg : Reg Byte
  /-- `CNT`: bits of the current field not yet completed (R18). -/
  cnt : Reg Nibble
  /-- `FLD`: the field in progress (R19). -/
  fld : Reg Field
  /-- `PH`: the micro-operation of the next sequencer step (R20). -/
  ph : Nibble
  /-- `PIN_CLK`: the CLOCK line (R22). -/
  pinClk : Level
  /-- `PIN_DAT`: the DATA line (R22). -/
  pinDat : Level
  /-- `PIN_LAT`: the LATCH line (R22). -/
  pinLat : Level
  /-- `cmd_valid`: a command waits in the slot (R25). -/
  cmdValid : Bool
  /-- `cmd_addr`: the slot's address argument (R25). -/
  cmdAddr : Reg Byte
  /-- `cmd_data`: the slot's data argument (R25). -/
  cmdData : Reg Byte
  /-- The trace, oldest event first (R8, R14). -/
  trace : List Event
  /-- The reference receiver that commits on LATCH rising edges (R40). Log 8. -/
  recvRise : Receiver
  /-- The reference receiver that commits on LATCH falling edges (R40). Log 8. -/
  recvFall : Receiver
  /-- `HOST_PROGRAM` (R6, D23): the commands the host has still to complete; its current call is the head. Log 4. -/
  hostProgram : List Command
  /-- The host has written the head command into the slot and its call has not returned (R72). Log 3. -/
  hostWaiting : Bool
  /-- The boot premise `pinsConfigured` (R115, D24): CLOCK, DATA and LATCH are outputs. Log 5. -/
  pinsConfigured : Bool
  /-- `T_LATCH_HOLD` (R6, D10), in nanoseconds: a parameter, never written. Log 6. -/
  tLatchHold : Nat
  /-- The turns still to come, in order: the inputs of the run, among them `rst` (R26). Log 2. -/
  schedule : List Turn
  deriving DecidableEq, Repr

/-- The model faults, exactly the three of R98. The hardware raises nothing (R96). A fault is final. -/
inductive Fault where
  /-- Raised by the sequencer step when `PH` is one of 9 to 15 (R64, R79). Safe: the spec gives no effect, and no run
  from reset meets it. -/
  | reservedPhase
  /-- Raised by CLK_HI when `CNT` is outside 1..4 with `FLD = ADDR`, or outside 1..8 with `FLD = DATA` (R86). Safe: no
  run from reset meets it. -/
  | counterOutOfRange
  /-- Raised by any micro-operation that reads a register holding `⊥` (R11, R98). Safe: no run from reset meets it
  (R112). -/
  | readUndefined
  deriving DecidableEq, Repr

/-- The refusals. Every instruction has its meaning, so none is ever given. -/
inductive Refusal where
  /-- Given by `exec` for an instruction without a meaning; no arm of this model gives it. Safe. -/
  | notModelled (mnemonic : String)
  deriving DecidableEq, Repr

/-- What a step answers. -/
abbrev Result := Host.Outcome State Fault Refusal

/-- The receiver before any event: no samples, every register `⊥` (R28, R40). -/
def Receiver.initial : Receiver := { samples := [], regs := .known [] }

/-- The machine right after the power-on reset (R33, R111, vector V-RST-3): `PH = IDLE`, `cmd_valid = 0`, every other
register `⊥`, the pins `X`, the trace `[Reset]`. The pin directions are not set yet (R115, log 5), the host's program
and the schedule are empty (log 4), and the latch hold is the uninterpreted constant of Config (log 6). -/
def State.reset : State :=
  { sr := .undef
    dreg := .undef
    cnt := .undef
    fld := .undef
    ph := Phase.idle
    pinClk := .x
    pinDat := .x
    pinLat := .x
    cmdValid := false
    cmdAddr := .undef
    cmdData := .undef
    trace := [.reset]
    recvRise := Receiver.initial
    recvFall := Receiver.initial
    hostProgram := []
    hostWaiting := false
    pinsConfigured := false
    tLatchHold := Config.tLatchHold
    schedule := [] }

end Sys2Proof.Machine
end

