-- ==== Sys2Proof/Machine/Flags.lean ====
section
/-! DEFINITION. Status. The block has no flags, condition codes or predicates (10_state.md R24); `busy` is a status
derived from `PH` (R21), and the host reads it and `cmd_valid` (R104). -/

namespace Sys2Proof.Machine

open Sys2Proof

/-- `busy` (R21): 1 exactly when `PH != IDLE`. -/
def State.busy (s : State) : Bool := s.ph != Phase.idle

/-- `cmd_valid = 0 and busy = 0`: when the host may write the slot (R73), and when its call returns (R72). -/
def State.slotFree (s : State) : Bool := !s.cmdValid && !s.busy

end Sys2Proof.Machine
end

