-- ==== Sys2Proof/Machine/Operands.lean ====
section
/-! DEFINITION. Reading operands: a register that may hold `⊥` (00_scope.md R11), the bits of a value (R9), and the
selector a step decodes (30_encoding.md R63). No operand is signed, scaled or offset (R56). -/

namespace Sys2Proof.Machine

open Sys2Proof

/-- `zext_N(v)` (R9). -/
def zext {w : Nat} (n : Nat) (v : BitVec w) : BitVec n := v.setWidth n

/-- `sext_N(v)` (R9): defined, and used by no rule. -/
def sext {w : Nat} (n : Nat) (v : BitVec w) : BitVec n := v.signExtend n

/-- `v >> 1` (R9, R94): bit 0 is dropped and the top bit becomes 0. -/
def shiftRightOne (v : Byte) : Byte := v >>> 1

/-- The current least-significant bit, `SR[0]` (R16). -/
def currentLsb (v : Byte) : Bool := v.getLsbD 0

/-- The level of a driven bit. -/
def levelOf (b : Bool) : Level := if b then .hi else .lo

/-- Reading a register (R11): its value goes on to `k`, and reading `⊥` is the model fault `ReadUndefined`, as the spec's
table of faults gives it for any rule (R98; decision D18; I5: "`fault` on read"; vectors V-FLT-7 and V-FLT-8). -/
def readReg {α : Type} (r : Reg α) (k : α → Result) : Result :=
  match r with
  | .undef => .fault .readUndefined
  | .val a => k a

/-- The selector of the next sequencer step, `USEL5 = {cmd_valid, PH}` (R63). -/
def State.selector (s : State) : BitVec 5 := selectorWord s.cmdValid s.ph

/-- CLK_HI's range test (R86): `CNT` is 1 to 4 in the address field, 1 to 8 in the data field. -/
def countInRange (f : Field) (n : Nibble) : Bool :=
  match f with
  | .addr => decide (1 ≤ n.toNat ∧ n.toNat ≤ 4)
  | .data => decide (1 ≤ n.toNat ∧ n.toNat ≤ 8)

end Sys2Proof.Machine
end

