-- ==== Sys2Proof/Machine/Receiver.lean ====
section
/-! DEFINITION. The wire as the receiver reads it (20_memory.md R39, R40; 00_scope.md R12): edges, the receiver's
register file, the reference receiver, and the observation of a whole trace. -/

namespace Sys2Proof.Machine

open Sys2Proof

/-! ### Edges (R12) -/

/-- Whether a pin write is an edge: it is, it is not, or (from or to the level `X`) it may or may not be. -/
inductive Seen where
  | yes
  | no
  | maybe
  deriving DecidableEq, Repr

/-- A rising edge (R12): 1 is driven while the level just before is 0. -/
def rising : Level → Level → Seen
  | .lo, .hi => .yes
  | .hi, _ => .no
  | _, .lo => .no
  | .x, .hi => .maybe
  | _, .x => .maybe

/-- A falling edge (R12): 0 is driven while the level just before is 1. -/
def falling : Level → Level → Seen
  | .hi, .lo => .yes
  | .lo, _ => .no
  | _, .hi => .no
  | .x, .lo => .maybe
  | _, .x => .maybe

/-- The LATCH edge of the kind on which the receiver commits (R40). -/
def CommitEdge.seenIn : CommitEdge → Level → Level → Seen
  | .rise => rising
  | .fall => falling

/-! ### The register file (R28, R40) -/

/-- The byte at an address, `⊥` where nothing is listed (R28). -/
def cellsRead : List Host.Cell → Nat → Reg Byte
  | [], _ => .undef
  | (k, b) :: rest, a => if k = a then .val b else cellsRead rest a

/-- Writing a byte, in the canonical form: addresses strictly rising, one cell an address. -/
def cellsWrite : List Host.Cell → Nat → Byte → List Host.Cell
  | [], a, v => [(a, v)]
  | (k, b) :: rest, a, v =>
    if a < k then (a, v) :: (k, b) :: rest
    else if a = k then (a, v) :: rest
    else (k, b) :: cellsWrite rest a v

/-- Every address of the list is above `lo`, they rise strictly, and each names one of the 16 registers. -/
def cellsAbove : Option Nat → List Host.Cell → Bool
  | _, [] => true
  | none, (k, _) :: rest => decide (k < 16) && cellsAbove (some k) rest
  | some lo, (k, _) :: rest => decide (lo < k) && decide (k < 16) && cellsAbove (some k) rest

/-- The canonical form of the receiver's memory. -/
def Memory.wf (m : List Host.Cell) : Bool := cellsAbove none m

/-- The canonical form of a register file; a file of which nothing is said has no cells. -/
def RecvRegs.wf : RecvRegs → Bool
  | .known m => Memory.wf m
  | .unspecified => true

/-- What the observation says of `RecvReg[a]`: nothing (`none`), or its contents, which may be `⊥`. -/
def RecvRegs.read (r : RecvRegs) (a : Nibble) : Option (Reg Byte) :=
  match r with
  | .known m => some (cellsRead m a.toNat)
  | .unspecified => none

/-- `MemWrite(a, 8, v)` (R10, R40). Nothing can be said of a file again once it is unspecified (R40). -/
def RecvRegs.memWrite (r : RecvRegs) (a : Nibble) (v : Byte) : RecvRegs :=
  match r with
  | .known m => .known (cellsWrite m a.toNat v)
  | .unspecified => .unspecified

/-! ### The reference receiver (R40) -/

/-- The bits of samples whose levels are all known. -/
def knownBits : List Level → Option (List Bool)
  | [] => some []
  | .lo :: rest => (knownBits rest).map (false :: ·)
  | .hi :: rest => (knownBits rest).map (true :: ·)
  | .x :: _ => none

/-- What a commit edge makes of the register file and the held samples (R40): nothing with no sample; with exactly
12, `RecvReg[{s_3,..,s_0}] <- {s_11,..,s_4}`; with any other number, unspecified. Samples at level `X` stand for both
levels (R11), so a frame with one leaves the file unspecified. Log 9. -/
def RecvRegs.commit (r : RecvRegs) (samples : List Level) : RecvRegs :=
  if samples.length = 0 then r
  else if samples.length = Config.frameLen then
    match knownBits samples with
    | some bits => r.memWrite (frameAddr (frameWordOf bits)) (frameData (frameWordOf bits))
    | none => .unspecified
  else .unspecified

/-- A CLOCK write, which samples DATA at a rising edge (R39, R40). A write from or to the level `X` may or may not be one
(R12), which leaves the number of samples open, and the observation says nothing of the registers from there. DESIGN
CHOICE: of the two readings the sample list itself follows the one without an edge and stays as it is. Log 9. -/
def Receiver.onClock (r : Receiver) (edge : Seen) (dat : Level) : Receiver :=
  match edge with
  | .yes => { r with samples := r.samples ++ [dat] }
  | .no => r
  | .maybe => { samples := r.samples, regs := .unspecified }

/-- A LATCH write, which commits at an edge of the receiver's kind and then clears the samples (R40). Where it may or
may not be that edge, both readings agree when no sample is held; otherwise the observation says nothing of the
registers from there (R113), and, DESIGN CHOICE, the sample list follows the reading with an edge and is cleared. Log 9. -/
def Receiver.onLatch (r : Receiver) (edge : Seen) : Receiver :=
  match edge with
  | .yes => { samples := [], regs := r.regs.commit r.samples }
  | .no => r
  | .maybe => if r.samples.length = 0 then r else { samples := [], regs := .unspecified }

/-! ### Observation of the wires -/

/-- The three levels and the receiver, as an observer of the trace holds them. -/
structure Observation where
  clk : Level
  dat : Level
  lat : Level
  recv : Receiver
  deriving DecidableEq, Repr

/-- Before any event: levels `X`, and the receiver as it starts. -/
def Observation.initial : Observation := { clk := .x, dat := .x, lat := .x, recv := Receiver.initial }

/-- Line `p` takes the level `new`. -/
def Observation.drive (e : CommitEdge) (p : Pin) (new : Level) (o : Observation) : Observation :=
  match p with
  | .clock => { o with clk := new, recv := o.recv.onClock (rising o.clk new) o.dat }
  | .data => { o with dat := new }
  | .latch => { o with lat := new, recv := o.recv.onLatch (e.seenIn o.lat new) }

/-- One event of the trace. A reset of the block makes the levels `X` and does not reset the receiver (R113, D16). -/
def Observation.event (e : CommitEdge) (o : Observation) : Event → Observation
  | .write p b => o.drive e p (levelOf b)
  | .reset => { o with clk := .x, dat := .x, lat := .x }
  | .accept _ _ => o
  | .hold _ => o
  | .done => o

/-- The events of a piece of trace, in order. -/
def Observation.events (e : CommitEdge) (o : Observation) (es : List Event) : Observation :=
  es.foldl (Observation.event e) o

/-- The observation function of R40: what a whole trace gives under a value of `LATCH_COMMIT_EDGE`. -/
def observe (e : CommitEdge) (trace : List Event) : Observation := Observation.initial.events e trace

/-- The receiver of the state for a value of `LATCH_COMMIT_EDGE`. -/
def State.receiver (e : CommitEdge) (s : State) : Receiver :=
  match e with
  | .rise => s.recvRise
  | .fall => s.recvFall

/-- The levels and the receiver that the state holds. -/
def State.observed (e : CommitEdge) (s : State) : Observation :=
  { clk := s.pinClk, dat := s.pinDat, lat := s.pinLat, recv := s.receiver e }

/-! ### Reading a piece of trace -/

/-- The level of pin `p` after an event, given its level before it. -/
def levelAfter (p : Pin) (l : Level) : Event → Level
  | .write q b => if q = p then levelOf b else l
  | .reset => .x
  | .accept _ _ => l
  | .hold _ => l
  | .done => l

/-- The levels of pin `p` at the certain CLOCK rising edges of a piece of trace, given the levels of CLOCK and of `p`
before it. With `p` the DATA line these are the receiver's samples (R39). -/
def atClockRises (p : Pin) (clk l : Level) : List Event → List Level
  | [] => []
  | ev :: rest =>
    let clk' := levelAfter .clock clk ev
    let l' := levelAfter p l ev
    match ev, rising clk clk' with
    | .write .clock _, .yes => l' :: atClockRises p clk' l' rest
    | _, _ => atClockRises p clk' l' rest

/-- The levels of CLOCK at the DATA writes of a piece of trace, in order, given the level of CLOCK before it (R76). -/
def clockAtDataWrites (clk : Level) : List Event → List Level
  | [] => []
  | .write .data _ :: rest => clk :: clockAtDataWrites clk rest
  | .write .clock b :: rest => clockAtDataWrites (levelOf b) rest
  | .reset :: rest => clockAtDataWrites .x rest
  | .write .latch _ :: rest => clockAtDataWrites clk rest
  | .accept _ _ :: rest => clockAtDataWrites clk rest
  | .hold _ :: rest => clockAtDataWrites clk rest
  | .done :: rest => clockAtDataWrites clk rest

/-- How many writes of a piece of trace are edges: certainly, and besides these possibly (R12, R76). -/
structure EdgeCount where
  sure : Nat
  possible : Nat
  deriving DecidableEq, Repr

/-- The edges of one direction on pin `p` in a piece of trace, given the pin's level before it (R12, R76). -/
def edgeCount (dir : Level → Level → Seen) (p : Pin) (l : Level) : List Event → EdgeCount
  | [] => { sure := 0, possible := 0 }
  | ev :: rest =>
    let l' := levelAfter p l ev
    let n := edgeCount dir p l' rest
    match ev with
    | .write q _ =>
      if q = p then
        match dir l l' with
        | .yes => { n with sure := n.sure + 1 }
        | .no => n
        | .maybe => { n with possible := n.possible + 1 }
      else n
    | .accept _ _ => n
    | .hold _ => n
    | .done => n
    | .reset => n

/-- Whether the DATA line is being sampled after an event: from a `Write(CLOCK, 1)` to the next `Write(CLOCK, 0)` or
`Write(LATCH, 1)` (R51). -/
def sampleWindowAfter (openNow : Bool) : Event → Bool
  | .write .clock b => b
  | .write .latch b => openNow && !b
  | .write .data _ => openNow
  | .accept _ _ => openNow
  | .hold _ => openNow
  | .done => openNow
  | .reset => openNow

/-- Whether the sampling window of R51 is open at the end of a piece of trace. -/
def sampleWindow (openNow : Bool) (es : List Event) : Bool := es.foldl sampleWindowAfter openNow

/-- R51: no DATA write falls inside a sampling window of the piece of trace. -/
def dataStable (openNow : Bool) : List Event → Bool
  | [] => true
  | ev :: rest =>
    (match ev with
     | .write .data _ => !openNow
     | .write .clock _ => true
     | .write .latch _ => true
     | .accept _ _ => true
     | .hold _ => true
     | .done => true
     | .reset => true) && dataStable (sampleWindowAfter openNow ev) rest

end Sys2Proof.Machine
end

