-- ==== Sys2Proof/Machine/Ops.lean ====
section
/-! DEFINITION. The operations the meanings share (00_scope.md R10): emitting an event, driving a pin, the latch hold,
the reset action (R111), the host's moves on the command slot (R25, R72, R73) and the boot premise (R115). The block has
no exception to take and none to return from (R96, R101, R102), so no operation of that kind stands here. -/

namespace Sys2Proof.Machine

open Sys2Proof

/-- `Emit(e)` (R10): the event is appended to the trace. -/
def State.emit (ev : Event) (s : State) : State := { s with trace := s.trace ++ [ev] }

/-- The level a pin takes when the block drives `b`: `b` on an output pin. While the boot premise does not hold the
write has no defined effect on the wire (R115): the level is unknown. Log 5. -/
def State.drivenLevel (s : State) (b : Bool) : Level := if s.pinsConfigured then levelOf b else .x

/-- The level of a pin (R22). -/
def State.pin (s : State) : Pin → Level
  | .clock => s.pinClk
  | .data => s.pinDat
  | .latch => s.pinLat

/-- `PinWrite(p, b)` (R10): drives pin `p`, which keeps the level until its next write (R23), and appends `Write(p, b)`.
The receiver sees the write at once (R46). -/
def State.pinWrite (p : Pin) (b : Bool) (s : State) : State :=
  { s with
    pinClk := if p = .clock then s.drivenLevel b else s.pinClk
    pinDat := if p = .data then s.drivenLevel b else s.pinDat
    pinLat := if p = .latch then s.drivenLevel b else s.pinLat
    recvRise := ((s.observed .rise).drive .rise p (s.drivenLevel b)).recv
    recvFall := ((s.observed .fall).drive .fall p (s.drivenLevel b)).recv
    trace := s.trace ++ [.write p b] }

/-- `Hold(t)` with `t = T_LATCH_HOLD` (R10, R88): a busy-wait in which nothing else happens. -/
def State.holdLatch (s : State) : State := s.emit (.hold s.tLatchHold)

/-- The reset action (R111), the one thing a step with `rst = 1` does (R100). The receiver is not reset (R113, D16). The
host context is reset with the block and the call in progress does not return (R113): log 3. The pin directions are to
be set again before the next command (R115): log 5. -/
def State.resetAction (s : State) : State :=
  { s with
    ph := Phase.idle
    cmdValid := false
    sr := .undef
    dreg := .undef
    cnt := .undef
    fld := .undef
    cmdAddr := .undef
    cmdData := .undef
    pinClk := .x
    pinDat := .x
    pinLat := .x
    trace := s.trace ++ [.reset]
    hostProgram := if s.hostWaiting then s.hostProgram.tail else s.hostProgram
    hostWaiting := false
    pinsConfigured := false }

/-- The host's write of the command slot (R25): all three registers in one host step. The host then waits (R72). -/
def State.postCommand (a d : Byte) (s : State) : State :=
  { s with cmdAddr := .val a, cmdData := .val d, cmdValid := true, hostWaiting := true }

/-- The host's call returns (R72), and the host goes on to its next command. -/
def State.returnCall (s : State) : State :=
  { s with hostWaiting := false, hostProgram := s.hostProgram.tail }

/-- Pin direction setup (R115, step 2 of R116): from here the boot premise holds. -/
def State.configurePins (s : State) : State := { s with pinsConfigured := true }

end Sys2Proof.Machine
end

