-- ==== Sys2Proof/Machine/Command.lean ====
section
/-! DEFINITION. The host command SEND (40_command.md): its meaning as the host's move, and the complete effect of one
call as R71 and R74 give it, which the sequencer's steps produce (R75). -/

namespace Sys2Proof.Machine

open Sys2Proof

/-- R71 SEND, the host's move in its blocking call (log 12). Until `cmd_valid = 0 and busy = 0` the host waits and
changes nothing (R73, and the second wait of R71). When they are, a call that has not written the slot yet writes it in
one host step (R25); a call that has written it returns (R72). The sequencer's steps between the two moves carry out the
command. -/
def execSend (a d : Byte) (s : State) : Result :=
  if s.slotFree then
    if s.hostWaiting then .next s.returnCall else .next (s.postCommand a d)
  else .next s

/-- The bit cells of R71's loop: `n` times CLOCK low, DATA to the value's bit 0, the value shifted right by one, CLOCK
high (R59). -/
def bitCells : Nat → Byte → List Event
  | 0, _ => []
  | n + 1, v =>
    .write .clock false :: .write .data (currentLsb v) :: .write .clock true :: bitCells n (shiftRightOne v)

/-- The events that R71's pseudocode emits for `SEND a, d` with the latch hold `t`, in order. -/
def sendEvents (t : Nat) (a d : Byte) : List Event :=
  [.accept a d, .write .latch false]
    ++ bitCells Config.addrW a ++ bitCells Config.dataW d
    ++ [.write .latch true, .hold t, .write .latch false, .done]

/-- One bit cell (R59). -/
def cellEvents (b : Bool) : List Event := [.write .clock false, .write .data b, .write .clock true]

/-- The 42 events of R75, from the frame `f_0 .. f_11` of R36. -/
def frameEvents (t : Nat) (a d : Byte) : List Event :=
  [.accept a d, .write .latch false] ++ (frame a d).flatMap cellEvents
    ++ [.write .latch true, .hold t, .write .latch false, .done]

/-- The state after the command's `Done` (R74), from the state in which the host has written `SEND a, d` into the slot:
the end values of R74, the events of R71 appended, and the receiver having seen them. -/
def State.afterSend (a d : Byte) (s : State) : State :=
  { s with
    ph := Phase.idle
    cmdValid := false
    sr := .val 0
    dreg := .val d
    cnt := .val 0
    fld := .val .data
    pinClk := .hi
    pinDat := levelOf (d.getLsbD 7)
    pinLat := .lo
    trace := s.trace ++ sendEvents s.tLatchHold a d
    recvRise := ((s.observed .rise).events .rise (sendEvents s.tLatchHold a d)).recv
    recvFall := ((s.observed .fall).events .fall (sendEvents s.tLatchHold a d)).recv }

end Sys2Proof.Machine
end

