-- ==== Sys2Proof/Machine/Sequencer.lean ====
section
/-! DEFINITION. The ten sequencer micro-operations (41_sequencer.md R80 to R89). Every read sees the value at the start
of the step and every write lands at its end (R79, R94). None touches a flag (R24) or reads a pin (R22). A fault leaves
no event and no change (R86, R98). -/

namespace Sys2Proof.Machine

open Sys2Proof

/-- R80 IDLE: no register, pin or trace change. -/
def execIdle (s : State) : Result := .next s

/-- R81 ACCEPT: takes the waiting command. All 8 bits of the address argument are loaded (D15). -/
def execAccept (s : State) : Result :=
  readReg s.cmdAddr fun a => readReg s.cmdData fun d =>
    .next { s.emit (.accept a d) with
      sr := .val a
      dreg := .val d
      cnt := .val 4
      fld := .val .addr
      cmdValid := false
      ph := Phase.latLoStart }

/-- R82 LAT_LO_START: LATCH low before the frame. -/
def execLatLoStart (s : State) : Result := .next { s.pinWrite .latch false with ph := Phase.clkLo }

/-- R83 CLK_LO: CLOCK low. -/
def execClkLo (s : State) : Result := .next { s.pinWrite .clock false with ph := Phase.datSet }

/-- R84 DAT_SET: DATA to `SR[0]`. -/
def execDatSet (s : State) : Result :=
  readReg s.sr fun v => .next { s.pinWrite .data (currentLsb v) with ph := Phase.shift }

/-- R85 SHIFT: `SR` shifted right by one. -/
def execShift (s : State) : Result :=
  readReg s.sr fun v => .next { s with sr := .val (shiftRightOne v), ph := Phase.clkHi }

/-- R86 CLK_HI: CLOCK high, then the bit count. The range test comes first and leaves no event where it faults. `DREG` is
read at the field switch only. -/
def execClkHi (s : State) : Result :=
  readReg s.cnt fun n => readReg s.fld fun f =>
    if countInRange f n then
      if 2 ≤ n.toNat then
        .next { s.pinWrite .clock true with cnt := .val (n - 1), ph := Phase.clkLo }
      else match f with
        | .addr => readReg s.dreg fun d =>
            .next { s.pinWrite .clock true with sr := .val d, cnt := .val 8, fld := .val .data, ph := Phase.clkLo }
        | .data => .next { s.pinWrite .clock true with cnt := .val 0, ph := Phase.latHi }
    else .fault .counterOutOfRange

/-- R87 LAT_HI: LATCH high. -/
def execLatHi (s : State) : Result := .next { s.pinWrite .latch true with ph := Phase.latHold }

/-- R88 LAT_HOLD: the latch hold, one step whatever its duration (R91). -/
def execLatHold (s : State) : Result := .next { s.holdLatch with ph := Phase.latLoEnd }

/-- R89 LAT_LO_END: LATCH low, then `Done`. -/
def execLatLoEnd (s : State) : Result :=
  .next { (s.pinWrite .latch false).emit .done with ph := Phase.idle }

end Sys2Proof.Machine
end

