-- ==== Sys2Proof/Machine/Dispatch.lean ====
section
/-! DEFINITION. One arm per operation of the opcode table, each one call of its meaning. -/

namespace Sys2Proof.Machine

open Sys2Proof

def exec (i : Instr) (s : State) : Host.Outcome State Fault Refusal :=
  match i with
  | .send a d => Sys2Proof.Machine.execSend a d s
  | .idle => Sys2Proof.Machine.execIdle s
  | .accept => Sys2Proof.Machine.execAccept s
  | .latLoStart => Sys2Proof.Machine.execLatLoStart s
  | .clkLo => Sys2Proof.Machine.execClkLo s
  | .datSet => Sys2Proof.Machine.execDatSet s
  | .shift => Sys2Proof.Machine.execShift s
  | .clkHi => Sys2Proof.Machine.execClkHi s
  | .latHi => Sys2Proof.Machine.execLatHi s
  | .latHold => Sys2Proof.Machine.execLatHold s
  | .latLoEnd => Sys2Proof.Machine.execLatLoEnd s

end Sys2Proof.Machine
end

