-- ==== Sys2Proof/Machine/Turn.lean ====
section
/-! DEFINITION. The turns of the two agents that move (00_scope.md R7): a sequencer step (R79), the host firmware's next
move in its boot order (R116), which of them comes next, and how a word is placed where the next step runs it. -/

namespace Sys2Proof.Machine

open Sys2Proof

/-- The operation that the next sequencer step with `rst = 0` performs, or why it performs none (R79). -/
def State.nextMicroOp (s : State) : Except Reject Instr := decode (.usel5 s.selector)

/-- One sequencer step (R79): the reset action where `rst = 1`, before anything else (R100); otherwise the micro-operation
that `USEL5` selects, or the model fault on a reserved phase code (R64). -/
def sequencerStep (rst : Bool) (s : State) : Result :=
  if rst then .next s.resetAction
  else match s.nextMicroOp with
    | .ok i => exec i s
    | .error (.reservedPhase _) => .fault .reservedPhase

/-- The SEND that the host performs at its next move, if its program holds one. A host keeps the two arguments apart
and never forms the command word (R55). -/
def State.nextCommand (s : State) : Option Instr := s.hostProgram.head?.map Command.instr

/-- One move of the host firmware, in the order of R116: pin direction setup before anything else (R115, log 5), then the
SEND at the head of its program. With no command left the host has no move (R122) and nothing changes. -/
def hostStep (s : State) : Result :=
  if s.pinsConfigured then
    match s.nextCommand with
    | none => .next s
    | some i => exec i s
  else .next s.configurePins

/-- Whether a move of the host would change anything: pin setup is due, or it has a command and the slot is free. -/
def State.hostReady (s : State) : Bool := !s.pinsConfigured || (!s.hostProgram.isEmpty && s.slotFree)

/-- Who moves when the schedule says nothing: the host when it is ready, else the sequencer with `rst = 0`. Whenever the
sequencer has an enabled step and the host waits for it, it is taken (R123). Log 2. -/
def State.defaultTurn (s : State) : Turn := if s.hostReady then .host else .sequencer false

/-- The turn of the next step. -/
def State.nextTurn (s : State) : Turn :=
  match s.schedule with
  | [] => s.defaultTurn
  | t :: _ => t

/-- The state once the schedule has given its next turn. -/
def State.turnTaken (s : State) : State := { s with schedule := s.schedule.tail }

/-- A turn of one of the two agents. -/
def runTurn : Turn → State → Result
  | .host, s => hostStep s
  | .sequencer rst, s => sequencerStep rst s

/-- Placing a SEND where the next step runs it: the head of the host's program, the host about to begin the call, the pin
directions set, and the host's turn. Log 14. -/
def State.placeCommand (c : Command) (s : State) : State :=
  { s with
    hostProgram := c :: s.hostProgram
    hostWaiting := false
    pinsConfigured := true
    schedule := .host :: s.schedule }

/-- A register's contents, or `a` where it holds `⊥`. -/
def Reg.orElse {α : Type} (r : Reg α) (a : α) : Reg α :=
  match r with
  | .undef => .val a
  | .val b => .val b

/-- Placing a selector where the next step runs its micro-operation: `PH` and `cmd_valid`, the pin directions set, and the
sequencer's turn. A command slot with `cmd_valid = 1` and a command in progress hold arguments (R25, R30, R112), so those
of the registers that the micro-operation reads and that hold `⊥` take the values of the command `SEND 0, 0` at its first
bit. Log 14. -/
def State.placeSelector (w : BitVec 5) (s : State) : State :=
  { s with
    ph := w.extractLsb' 0 4
    cmdValid := w.getLsbD 4
    cmdAddr := if w = 0x10#5 then Reg.orElse s.cmdAddr 0 else s.cmdAddr
    cmdData := if w = 0x10#5 then Reg.orElse s.cmdData 0 else s.cmdData
    sr := if w.extractLsb' 0 4 = Phase.datSet ∨ w.extractLsb' 0 4 = Phase.shift then Reg.orElse s.sr 0 else s.sr
    cnt := if w.extractLsb' 0 4 = Phase.clkHi then Reg.orElse s.cnt 4 else s.cnt
    fld := if w.extractLsb' 0 4 = Phase.clkHi then Reg.orElse s.fld .addr else s.fld
    dreg := if w.extractLsb' 0 4 = Phase.clkHi then Reg.orElse s.dreg 0 else s.dreg
    pinsConfigured := true
    schedule := .sequencer false :: s.schedule }

/-- Placing a code word where the next step runs it. -/
def State.placeWord (c : CodeWord) (s : State) : State :=
  match c with
  | .cmd16 w => s.placeCommand (commandOfWord w)
  | .usel5 w => s.placeSelector w

end Sys2Proof.Machine
end

