-- ==== Sys2Proof/Machine/Step.lean ====
section
/-! DEFINITION. One step of the machine: the turn that the schedule gives, taken. -/

namespace Sys2Proof.Machine

open Sys2Proof

/-- One step (R46, R79, R100): the agent whose turn it is moves. A host move and a sequencer step are separate steps. -/
def step (s : State) : Host.Outcome State Fault Refusal := runTurn s.nextTurn s.turnTaken

/-- `s` with the table word placed where the next step runs it (log 14, log 15); a number that is no word of the table's
formats places nothing. -/
def State.withFetchWord (s : State) (nbits w : Nat) : State :=
  match codeWordOfTable nbits w with
  | some c => s.placeWord c
  | none => s

end Sys2Proof.Machine
end

