-- ==== Sys2Proof/Machine/HostText.lean ====
section
/-! DEFINITION. The source text of a host program (30_encoding.md R68, R70): lines `label: SEND <addr>, <data> ; comment`,
read as lists of characters. What the rule leaves open (which characters are blank, what a label is, the letter case) is
log 16. -/

namespace Sys2Proof.Machine

open Sys2Proof

/-- Why a line is refused. -/
inductive TextError where
  /-- What stands before the colon is no label. -/
  | badLabel
  /-- R68: "No other statement exists" than `SEND <addr>, <data>`. -/
  | notASend
  /-- R68: a literal is written in decimal, `0x` hexadecimal or `0b` binary. -/
  | badLiteral
  /-- R68: "A literal outside 0 to 255 is refused." -/
  | literalOutOfRange
  deriving DecidableEq, Repr

/-- A blank inside a line: a space, a tab, or the carriage return of a line end. Log 16. -/
def isBlankChar (c : Char) : Bool := c == ' ' || c == '\t' || c == '\r'

/-- A piece of text without the blanks at its two ends. -/
def trimBlanks (cs : List Char) : List Char :=
  ((cs.dropWhile isBlankChar).reverse.dropWhile isBlankChar).reverse

/-- R68: "Text from `;` to the end of a line is a comment." -/
def dropComment (cs : List Char) : List Char := cs.takeWhile (· != ';')

/-- The value of a digit, hexadecimal ones in either case. -/
def digitValue (c : Char) : Option Nat :=
  if '0' ≤ c ∧ c ≤ '9' then some (c.toNat - '0'.toNat)
  else if 'a' ≤ c ∧ c ≤ 'f' then some (c.toNat - 'a'.toNat + 10)
  else if 'A' ≤ c ∧ c ≤ 'F' then some (c.toNat - 'A'.toNat + 10)
  else none

/-- A number's digits in a base, after the digits that make `acc`. -/
def digitsValue (base acc : Nat) : List Char → Option Nat
  | [] => some acc
  | c :: cs =>
    match digitValue c with
    | some v => if v < base then digitsValue base (acc * base + v) cs else none
    | none => none

/-- One or more digits in a base. -/
def numberValue (base : Nat) (cs : List Char) : Option Nat :=
  match cs with
  | [] => none
  | _ :: _ => digitsValue base 0 cs

/-- R68: a literal, "decimal, `0x` hexadecimal or `0b` binary". -/
def literalValue (cs : List Char) : Option Nat :=
  match cs with
  | '0' :: 'x' :: ds => numberValue 16 ds
  | '0' :: 'b' :: ds => numberValue 2 ds
  | ds => numberValue 10 ds

/-- The character a label may start with. Log 16. -/
def isLabelStart (c : Char) : Bool :=
  decide ('a' ≤ c ∧ c ≤ 'z') || decide ('A' ≤ c ∧ c ≤ 'Z') || c == '_'

/-- A label: a letter or underscore, then letters, digits or underscores. Log 16. -/
def isLabel (cs : List Char) : Bool :=
  match cs with
  | [] => false
  | c :: rest => isLabelStart c && rest.all fun k => isLabelStart k || decide ('0' ≤ k ∧ k ≤ '9')

/-- A line without its label (R68: "optionally prefixed by `label:`"). -/
def dropLabel (cs : List Char) : Except TextError (List Char) :=
  if cs.contains ':' then
    if isLabel (trimBlanks (cs.takeWhile (· != ':'))) then .ok ((cs.dropWhile (· != ':')).drop 1)
    else .error .badLabel
  else .ok cs

/-- The two literals of `<addr>, <data>`. -/
def operandsOf (cs : List Char) : Except TextError SendStmt :=
  if cs.contains ',' then
    match literalValue (trimBlanks (cs.takeWhile (· != ','))),
      literalValue (trimBlanks ((cs.dropWhile (· != ',')).drop 1)) with
    | some a, some d => .ok { addr := a, data := d }
    | _, _ => .error .badLiteral
  else .error .notASend

/-- The statement of a line, without label, comment and outer blanks: `SEND`, a blank, two literals (R68). -/
def statementOf (cs : List Char) : Except TextError SendStmt :=
  match cs with
  | 'S' :: 'E' :: 'N' :: 'D' :: c :: rest =>
    if isBlankChar c then operandsOf rest else .error .notASend
  | _ => .error .notASend

/-- The command of a written SEND line, whose literals are checked (R68). -/
def checkedCommand (p : SendStmt) : Except TextError Command :=
  match p.command with
  | some c => .ok c
  | none => .error .literalOutOfRange

/-- A line of a host program: no command where it is blank or holds a comment alone (log 16), else one command. -/
def lineCommand (line : List Char) : Except TextError (Option Command) :=
  match trimBlanks (dropComment line) with
  | [] => .ok none
  | c :: cs =>
    match dropLabel (c :: cs) with
    | .error e => .error e
    | .ok body =>
      match statementOf (trimBlanks body) with
      | .error e => .error e
      | .ok p =>
        match checkedCommand p with
        | .error e => .error e
        | .ok cmd => .ok (some cmd)

/-- The lines of a text. -/
def textLines : List Char → List (List Char)
  | [] => [[]]
  | c :: cs =>
    if c = '\n' then [] :: textLines cs
    else match textLines cs with
      | [] => [[c]]
      | l :: ls => (c :: l) :: ls

/-- The commands of the lines, in order, or the first refusal. -/
def linesProgram : List (List Char) → Except TextError (List Command)
  | [] => .ok []
  | l :: ls =>
    match lineCommand l, linesProgram ls with
    | .error e, _ => .error e
    | .ok _, .error e => .error e
    | .ok none, .ok cs => .ok cs
    | .ok (some c), .ok cs => .ok (c :: cs)

/-- A host program's text as `HOST_PROGRAM` (R68, D23). -/
def textProgram (cs : List Char) : Except TextError (List Command) := linesProgram (textLines cs)

/-- The digit of a hexadecimal value below 16. -/
def hexDigit (n : Nat) : Char :=
  if n < 10 then Char.ofNat ('0'.toNat + n) else Char.ofNat ('A'.toNat + (n - 10))

/-- A byte as a `0x` literal of two digits. -/
def byteText (b : Byte) : List Char := ['0', 'x', hexDigit (b.toNat / 16), hexDigit (b.toNat % 16)]

/-- The line that sends a command (R68): `SEND <addr>, <data>`. -/
def commandText (c : Command) : List Char :=
  ['S', 'E', 'N', 'D', ' '] ++ byteText c.addr ++ [',', ' '] ++ byteText c.data

/-- A host program's text, one line a command. -/
def programText : List Command → List Char
  | [] => []
  | c :: cs => commandText c ++ '\n' :: programText cs

end Sys2Proof.Machine
end

