-- ==== Sys2Proof/Safety.lean ====
section
/-! DEFINITION. What claims about the machine are stated in: the launch states and what is reachable from them (R114), the
invariant of 10_state.md R30 and the rest that makes it inductive, and the end of a run (R122). -/

namespace Sys2Proof.Machine

open Sys2Proof

/-- `k` steps of the machine. -/
def runSteps (k : Nat) (s : State) : Result := Host.Core.run Sys2Proof.core k s

/-- The machine after power-on (R33) with the OPEN arguments of a run: the host's program (D23), the latch hold (D10) and the
turns to come (R100). -/
def State.launch (program : List Command) (turns : List Turn) (t : Nat) : State :=
  { State.reset with hostProgram := program, schedule := turns, tLatchHold := t }

/-- The premise on the latch hold (R6, R117): `T_LATCH_HOLD >= T_LATCH_HOLD_MIN`. -/
def State.holdPremise (s : State) : Prop := Config.tLatchHoldMin ≤ s.tLatchHold

/-- Reachable from power-on, for some program, turns and latch hold that meets its premise. -/
def Reachable (s : State) : Prop :=
  ∃ program turns t k, Config.tLatchHoldMin ≤ t ∧ runSteps k (State.launch program turns t) = .next s

/-- R114: a clean start. A state records no fault (a fault ends the run). -/
structure State.CleanStart (s : State) : Prop where
  reachable : Reachable s
  idle : s.ph = Phase.idle
  slotEmpty : s.cmdValid = false
  pinsConfigured : s.pinsConfigured = true

/-- R122: the end of a run. -/
structure State.Finished (s : State) : Prop where
  idle : s.ph = Phase.idle
  slotEmpty : s.cmdValid = false
  noCommand : s.hostProgram = []

/-! ### Runs of one agent -/

/-- A list of turns, taken in order from a state, whatever its schedule says. -/
def runTurns : List Turn → State → Result
  | [], s => .next s
  | t :: ts, s =>
    match runTurn t s with
    | .next u => runTurns ts u
    | .fault f => .fault f
    | .refused r => .refused r

/-- `k` sequencer steps with `rst = 0`. -/
def runSequencer (k : Nat) (s : State) : Result := runTurns (List.replicate k (.sequencer false)) s

/-! ### Frames: what two states share -/

/-- The working registers `SR`, `DREG`, `CNT` and `FLD` are the same. -/
def SameWorking (s t : State) : Prop := t.sr = s.sr ∧ t.dreg = s.dreg ∧ t.cnt = s.cnt ∧ t.fld = s.fld

/-- The command slot is the same. -/
def SameSlot (s t : State) : Prop := t.cmdValid = s.cmdValid ∧ t.cmdAddr = s.cmdAddr ∧ t.cmdData = s.cmdData

/-- The three pins have the same levels. -/
def SamePins (s t : State) : Prop := t.pinClk = s.pinClk ∧ t.pinDat = s.pinDat ∧ t.pinLat = s.pinLat

/-- Both receivers are the same: their samples, and every one of their registers. -/
def SameReceivers (s t : State) : Prop := t.recvRise = s.recvRise ∧ t.recvFall = s.recvFall

/-- The host, the boot premise, the latch hold and the turns to come are the same. -/
def SameHost (s t : State) : Prop :=
  t.hostProgram = s.hostProgram ∧ t.hostWaiting = s.hostWaiting ∧ t.pinsConfigured = s.pinsConfigured ∧
    t.tLatchHold = s.tLatchHold ∧ t.schedule = s.schedule

/-! ### The invariant -/

/-- The phases of a bit cell. -/
def inCell (ph : Nibble) : Prop :=
  ph = Phase.clkLo ∨ ph = Phase.datSet ∨ ph = Phase.shift ∨ ph = Phase.clkHi

/-- The phases of the latch pulse. -/
def inLatchPulse (ph : Nibble) : Prop :=
  ph = Phase.latHi ∨ ph = Phase.latHold ∨ ph = Phase.latLoEnd

/-- R30, clause by clause. -/
structure State.RuleThirty (s : State) : Prop where
  slot : s.ph ≠ Phase.idle → s.cmdValid = false
  start : s.ph = Phase.latLoStart → s.fld = .val .addr ∧ s.cnt = .val 4
  cellCount : inCell s.ph → ∃ f n, s.fld = .val f ∧ s.cnt = .val n ∧
    ((f = .addr ∧ 1 ≤ n.toNat ∧ n.toNat ≤ 4) ∨ (f = .data ∧ 1 ≤ n.toNat ∧ n.toNat ≤ 8))
  cellLatch : inCell s.ph → s.pinLat = .lo
  pulse : inLatchPulse s.ph → s.fld = .val .data ∧ s.cnt = .val 0 ∧ s.pinClk = .hi
  pulseLatch : s.ph = Phase.latHold ∨ s.ph = Phase.latLoEnd → s.pinLat = .hi
  notReserved : phaseReserved s.ph = false

/-- The invariant that every step keeps: R30, and what it needs beside it. A waiting command has its arguments (R25, R112),
a command in progress has its working registers, commands are issued only with the boot premise in force (R115, R116),
CLOCK is low and DATA known between CLK_LO and CLK_HI (R84, R86), LATCH is low when it is about to rise (R87), and the
receivers' memories are in their canonical form. -/
structure State.Inv (s : State) : Prop where
  rule : s.RuleThirty
  slotArgs : s.cmdValid = true → ∃ a d, s.cmdAddr = .val a ∧ s.cmdData = .val d
  working : s.ph ≠ Phase.idle → ∃ v d, s.sr = .val v ∧ s.dreg = .val d
  configured : s.ph ≠ Phase.idle ∨ s.cmdValid = true → s.pinsConfigured = true
  clockLow : s.ph = Phase.datSet ∨ s.ph = Phase.shift ∨ s.ph = Phase.clkHi → s.pinClk = .lo
  dataKnown : s.ph = Phase.shift ∨ s.ph = Phase.clkHi → s.pinDat ≠ .x
  latchLow : s.ph = Phase.latHi → s.pinLat = .lo
  memRise : s.recvRise.regs.wf = true
  memFall : s.recvFall.regs.wf = true

/-- The receivers that the state carries are what the observation function of R40 makes of its trace, and so are its pin
levels. -/
def State.Observes (s : State) : Prop :=
  s.observed .rise = observe .rise s.trace ∧ s.observed .fall = observe .fall s.trace

end Sys2Proof.Machine
end

