-- ==== Sys2Proof/Certificates/Slice0/Obligations.lean ====
section
/-! DEFINITION. The statements about the machine, from the numbered rules of the spec. -/

open Sys2Proof Sys2Proof.Machine

/-! ### Encodings -/

/-- R55: `cmd_data = CMD16[15:8]` and `cmd_addr = CMD16[7:0]`, read and written. -/
def Obligations.CommandWordHoldsDataAboveAddress : Prop :=
  ∀ w : BitVec 16, ∃ a d, decode (.cmd16 w) = .ok (.send a d) ∧ encode false (.send a d) = .cmd16 w ∧
    ∀ i, i < 8 → a.getLsbD i = w.getLsbD i ∧ d.getLsbD i = w.getLsbD (i + 8)

/-- The encoder and the decoder agree in both directions (R55, R63, R65): decoding a code word of an instruction gives it
back whatever the don't-care bit; an accepted word is a code word of what it decodes to; and the words refused are
exactly the selectors whose `PH` is reserved. -/
def Obligations.DecodeAndEncodeAgree : Prop :=
  (∀ i v, decode (encode v i) = .ok i) ∧
  (∀ c i, decode c = .ok i → ∃ v, encode v i = c) ∧
  (∀ c r, decode c = .error r ↔
    ∃ v ph, phaseReserved ph = true ∧ c = .usel5 (selectorWord v ph) ∧ r = .reservedPhase ph)

/-- R65 with R63's table: SEND is matched by every command word, and each of the 32 selector values is one of the ten
micro-operations or is reserved. -/
def Obligations.SelectorDecoderIsTotal : Prop :=
  (∀ w, ∃ a d, decode (.cmd16 w) = .ok (.send a d)) ∧
  ∀ (v : Bool) (ph : Nibble), decode (.usel5 (selectorWord v ph)) =
    match ph.toNat with
    | 0 => .ok (if v then .accept else .idle)
    | 1 => .ok .latLoStart
    | 2 => .ok .clkLo
    | 3 => .ok .datSet
    | 4 => .ok .shift
    | 5 => .ok .clkHi
    | 6 => .ok .latHi
    | 7 => .ok .latHold
    | 8 => .ok .latLoEnd
    | _ => .error (.reservedPhase ph)

/-- Words written out from R55 and R63 decode to what they stand for (vectors V-ENC-1, V-ENC-5 to V-ENC-9). -/
def Obligations.WrittenWordsDecode : Prop :=
  decode (.cmd16 0b1010001100000101#16) = .ok (.send 0x05 0xA3) ∧
  decode (.usel5 0b00000#5) = .ok .idle ∧ decode (.usel5 0b10000#5) = .ok .accept ∧
  decode (.usel5 0b00101#5) = .ok .clkHi ∧ decode (.usel5 0b10101#5) = .ok .clkHi ∧
  decode (.usel5 0b01000#5) = .ok .latLoEnd ∧ decode (.usel5 0b11000#5) = .ok .latLoEnd ∧
  decode (.usel5 0b01001#5) = .error (.reservedPhase 9) ∧ decode (.usel5 0b11111#5) = .error (.reservedPhase 15)

/-- R36 and R37: the frame is the frame word shifted out least-significant bit first, `f_i = W[i]`; and its two fields read
back as the data argument and the low four bits of the address argument. -/
def Obligations.FrameIsTheFrameWordLsbFirst : Prop :=
  ∀ a d : Byte, (frame a d).length = 12 ∧
    (∀ i, i ≤ 3 → (frame a d)[i]? = some (a.getLsbD i)) ∧
    (∀ i, 4 ≤ i → i ≤ 11 → (frame a d)[i]? = some (d.getLsbD (i - 4))) ∧
    (∀ i, i ≤ 11 → (frame a d)[i]? = some ((frameWord a d).getLsbD i)) ∧
    frameWordOf (frame a d) = frameWord a d ∧
    frameAddr (frameWord a d) = txAddr a ∧ frameData (frameWord a d) = d

/-! ### A step runs the decoded instruction -/

/-- On a sequencer turn with `rst = 0` a step is the micro-operation that the selector decodes to (R79), run on the state
from which the schedule's turn has been taken. -/
def Obligations.StepRunsTheSelectedMicroOperation : Prop :=
  ∀ s i, s.nextTurn = .sequencer false → decode (.usel5 (selectorWord s.cmdValid s.ph)) = .ok i →
    step s = exec i { s with schedule := s.schedule.tail }

/-- What a step is on a host turn, in R116's order. With the pin directions unset it sets the boot premise and changes
nothing else (R115; that this is one host move is log 5). With them set it is the SEND at the head of the host's program,
which is what the command word of that command decodes to (R55), run on the state from which the schedule's turn has been
taken; and with no command left nothing changes (R122). Whose turn it is, and that a step takes the turn off the schedule,
are the model's own (log 2). -/
def Obligations.StepRunsTheHostsCommand : Prop :=
  (∀ s, s.nextTurn = .host → s.pinsConfigured = false →
    step s = .next { s with schedule := s.schedule.tail, pinsConfigured := true }) ∧
  (∀ s c rest, s.nextTurn = .host → s.pinsConfigured = true → s.hostProgram = c :: rest →
    decode (.cmd16 (encodeCommand c.addr c.data)) = .ok (.send c.addr c.data) ∧
    step s = exec (.send c.addr c.data) { s with schedule := s.schedule.tail }) ∧
  ∀ s, s.nextTurn = .host → s.pinsConfigured = true → s.hostProgram = [] →
    step s = .next { s with schedule := s.schedule.tail }

/-- A word of the opcode table that is placed for the next step is the instruction that the next step runs (log 14). -/
def Obligations.PlacedWordRunsNext : Prop :=
  ∀ (s : State) (nbits w : Nat) (i : Instr), decodeTableWord nbits w = some i →
    step (s.withFetchWord nbits w) =
      exec i { s.withFetchWord nbits w with schedule := s.schedule }

/-! ### Reset -/

/-- R33: what each item holds after reset, and that a later reset appends `Reset` and keeps the earlier events. -/
def Obligations.ResetLeavesTheseValues : Prop :=
  State.reset.ph = 0b0000#4 ∧ State.reset.busy = false ∧ State.reset.cmdValid = false ∧
  State.reset.cmdAddr = .undef ∧ State.reset.cmdData = .undef ∧
  State.reset.sr = .undef ∧ State.reset.dreg = .undef ∧ State.reset.cnt = .undef ∧ State.reset.fld = .undef ∧
  State.reset.pinClk = .x ∧ State.reset.pinDat = .x ∧ State.reset.pinLat = .x ∧
  State.reset.trace = [.reset] ∧
  (∀ e a, (State.reset.receiver e).regs.read a = some .undef) ∧
  ∀ s, ∃ t, sequencerStep true s = .next t ∧ t.trace = s.trace ++ [.reset]

/-- R111: the reset action of a step with `rst = 1`, whatever `PH` holds, a reserved code included; on an empty trace it
leaves `[Reset]`; after it `busy = 0`. -/
def Obligations.ResetActionFromEveryState : Prop :=
  ∀ s, ∃ t, sequencerStep true s = .next t ∧
    t.ph = Phase.idle ∧ t.busy = false ∧ t.cmdValid = false ∧
    t.sr = .undef ∧ t.dreg = .undef ∧ t.cnt = .undef ∧ t.fld = .undef ∧ t.cmdAddr = .undef ∧ t.cmdData = .undef ∧
    t.pinClk = .x ∧ t.pinDat = .x ∧ t.pinLat = .x ∧
    t.trace = s.trace ++ [.reset] ∧ (s.trace = [] → t.trace = [.reset]) ∧
    (s.nextTurn = .sequencer true → step s = .next { t with schedule := s.schedule.tail })

/-- What a reset leaves outside the block (R113, D16): the receivers keep their samples and registers, the call in progress
does not return and the host goes on to its next command, and the pin directions are to be set again. The last two are
the model's own reading: logs 3 and 5. -/
def Obligations.ResetKeepsReceiverAndDropsTheCall : Prop :=
  ∀ s, ∃ t, sequencerStep true s = .next t ∧ SameReceivers s t ∧
    t.hostWaiting = false ∧ t.pinsConfigured = false ∧
    (s.hostWaiting = true → t.hostProgram = s.hostProgram.tail) ∧
    (s.hostWaiting = false → t.hostProgram = s.hostProgram) ∧
    t.tLatchHold = s.tLatchHold ∧ t.schedule = s.schedule

/-- R100: `rst = 1` wins over every micro-operation and every fault check; a reserved phase is decided before any
micro-operation and the counter fault arises in CLK_HI only; and a host write and a sequencer step in IDLE give the same
state in either order, ACCEPT taking the command at the first sequencer step after the write. -/
def Obligations.ResetAndDecodePriorities : Prop :=
  (∀ s, sequencerStep true s = .next s.resetAction) ∧
  (∀ s, sequencerStep false s = .fault .reservedPhase ↔ phaseReserved s.ph = true) ∧
  (∀ i s, exec i s = .fault .counterOutOfRange → i = .clkHi) ∧
  (∀ s c rest, s.slotFree = true → s.hostWaiting = false → s.pinsConfigured = true → s.hostProgram = c :: rest →
    ∃ t, runTurns [.host, .sequencer false] s = .next t ∧
      runTurns [.sequencer false, .host, .sequencer false] s = .next t ∧
      t.trace = s.trace ++ [.accept c.addr c.data])

/-! ### The micro-operations, one by one -/

/-- R80: IDLE changes no register, pin or trace, and a step in `PH = IDLE` with no command waiting is IDLE. -/
def Obligations.IdleChangesNothing : Prop :=
  ∀ s, exec .idle s = .next s ∧
    (s.ph = Phase.idle → s.cmdValid = false → sequencerStep false s = .next s)

/-- R81: ACCEPT loads the working registers, clears `cmd_valid`, emits `Accept`, and raises `busy`; it touches no pin, no
receiver register, and neither argument register. -/
def Obligations.AcceptTakesTheWaitingCommand : Prop :=
  ∀ s a d, s.cmdAddr = .val a → s.cmdData = .val d → ∃ t, exec .accept s = .next t ∧
    t.sr = .val a ∧ t.dreg = .val d ∧ t.cnt = .val 4 ∧ t.fld = .val .addr ∧ t.cmdValid = false ∧
    t.trace = s.trace ++ [.accept a d] ∧ t.ph = Phase.latLoStart ∧ t.busy = true ∧
    t.cmdAddr = s.cmdAddr ∧ t.cmdData = s.cmdData ∧ SamePins s t ∧ SameReceivers s t ∧ SameHost s t

/-- R82: LAT_LO_START drives LATCH to 0 and goes on to CLK_LO. On output pins (R115) LATCH is then 0; it is no edge from
0, a falling edge from 1, and may be one from `X`. Nothing else changes but the receivers, which see the write (R40).
While the pin directions are unset the level is unknown, which is the model's choice (log 5), here and below. -/
def Obligations.LatLoStartDrivesLatchLow : Prop :=
  ∀ s, ∃ t, exec .latLoStart s = .next t ∧ t.ph = Phase.clkLo ∧ t.trace = s.trace ++ [.write .latch false] ∧
    (s.pinsConfigured = true → t.pinLat = .lo ∧
      ∀ e, t.receiver e = (s.receiver e).onLatch (e.seenIn s.pinLat .lo)) ∧
    (s.pinsConfigured = false → t.pinLat = .x) ∧
    t.pinClk = s.pinClk ∧ t.pinDat = s.pinDat ∧ SameWorking s t ∧ SameSlot s t ∧ SameHost s t

/-- R83: CLK_LO drives CLOCK to 0 and goes on to DAT_SET. On output pins no sample is taken and no receiver
changes (R39). -/
def Obligations.ClkLoDrivesClockLow : Prop :=
  ∀ s, ∃ t, exec .clkLo s = .next t ∧ t.ph = Phase.datSet ∧ t.trace = s.trace ++ [.write .clock false] ∧
    (s.pinsConfigured = true → t.pinClk = .lo ∧ SameReceivers s t) ∧
    (s.pinsConfigured = false → t.pinClk = .x) ∧
    t.pinDat = s.pinDat ∧ t.pinLat = s.pinLat ∧ SameWorking s t ∧ SameSlot s t ∧ SameHost s t

/-- R84: DAT_SET drives DATA to `SR[0]` and goes on to SHIFT. `SR` is not changed, and no receiver samples. -/
def Obligations.DatSetDrivesTheCurrentBit : Prop :=
  ∀ s v, s.sr = .val v → ∃ t, exec .datSet s = .next t ∧ t.ph = Phase.shift ∧
    t.trace = s.trace ++ [.write .data (v.getLsbD 0)] ∧
    (s.pinsConfigured = true → t.pinDat = levelOf (v.getLsbD 0)) ∧
    (s.pinsConfigured = false → t.pinDat = .x) ∧
    t.pinClk = s.pinClk ∧ t.pinLat = s.pinLat ∧ SameWorking s t ∧ SameSlot s t ∧ SameReceivers s t ∧ SameHost s t

/-- R85: SHIFT gives `SR' = {0, SR[7:1]}` and goes on to CLK_HI; it writes no pin and appends no event. -/
def Obligations.ShiftMovesEveryBitDown : Prop :=
  ∀ s v, s.sr = .val v → ∃ t v', exec .shift s = .next t ∧ t.sr = .val v' ∧ t.ph = Phase.clkHi ∧
    v'.getLsbD 7 = false ∧ (∀ i, i < 7 → v'.getLsbD i = v.getLsbD (i + 1)) ∧
    t.trace = s.trace ∧ t.dreg = s.dreg ∧ t.cnt = s.cnt ∧ t.fld = s.fld ∧
    SameSlot s t ∧ SamePins s t ∧ SameReceivers s t ∧ SameHost s t

/-- R86, within a field (`CNT >= 2`): CLK_HI drives CLOCK to 1, takes one from `CNT`, which does not wrap, and goes on to
CLK_LO. On output pins the receivers sample DATA at a rise of CLOCK (R39), and no register of theirs changes. -/
def Obligations.ClkHiCountsDownWithinAField : Prop :=
  ∀ s n f, s.cnt = .val n → s.fld = .val f → 2 ≤ n.toNat →
    ((f = .addr ∧ n.toNat ≤ 4) ∨ (f = .data ∧ n.toNat ≤ 8)) →
    ∃ t n', exec .clkHi s = .next t ∧ t.cnt = .val n' ∧ n'.toNat + 1 = n.toNat ∧ t.ph = Phase.clkLo ∧
      t.trace = s.trace ++ [.write .clock true] ∧
      (s.pinsConfigured = true → t.pinClk = .hi) ∧
      (s.pinsConfigured = false → t.pinClk = .x) ∧
      (s.pinsConfigured = true → s.pinClk = .lo → ∀ e, (t.receiver e).samples = (s.receiver e).samples ++ [s.pinDat] ∧
        (t.receiver e).regs = (s.receiver e).regs) ∧
      (s.pinsConfigured = true → s.pinClk = .hi → SameReceivers s t) ∧
      t.sr = s.sr ∧ t.dreg = s.dreg ∧ t.fld = s.fld ∧
      t.pinDat = s.pinDat ∧ t.pinLat = s.pinLat ∧ SameSlot s t ∧ SameHost s t

/-- R86, the field switch (`CNT = 1`, `FLD = ADDR`): CLK_HI drives CLOCK to 1, loads `SR` with `DREG`, `CNT` with 8 and
`FLD` with DATA, and goes on to CLK_LO. The switch changes no other pin, and `DREG` stays. -/
def Obligations.ClkHiSwitchesTheField : Prop :=
  ∀ s d, s.cnt = .val 1 → s.fld = .val .addr → s.dreg = .val d →
    ∃ t, exec .clkHi s = .next t ∧ t.sr = .val d ∧ t.cnt = .val 8 ∧ t.fld = .val .data ∧ t.ph = Phase.clkLo ∧
      t.trace = s.trace ++ [.write .clock true] ∧
      (s.pinsConfigured = true → t.pinClk = .hi) ∧
      (s.pinsConfigured = false → t.pinClk = .x) ∧
      (s.pinsConfigured = true → s.pinClk = .lo → ∀ e, (t.receiver e).samples = (s.receiver e).samples ++ [s.pinDat] ∧
        (t.receiver e).regs = (s.receiver e).regs) ∧
      (s.pinsConfigured = true → s.pinClk = .hi → SameReceivers s t) ∧
      t.dreg = s.dreg ∧ t.pinDat = s.pinDat ∧ t.pinLat = s.pinLat ∧ SameSlot s t ∧ SameHost s t

/-- R86, the 12th bit (`CNT = 1`, `FLD = DATA`): CLK_HI drives CLOCK to 1, sets `CNT` to 0 and goes on to LAT_HI, whatever
`DREG` holds. -/
def Obligations.ClkHiEndsTheFrame : Prop :=
  ∀ s, s.cnt = .val 1 → s.fld = .val .data →
    ∃ t, exec .clkHi s = .next t ∧ t.cnt = .val 0 ∧ t.ph = Phase.latHi ∧
      t.trace = s.trace ++ [.write .clock true] ∧
      (s.pinsConfigured = true → t.pinClk = .hi) ∧
      (s.pinsConfigured = false → t.pinClk = .x) ∧
      (s.pinsConfigured = true → s.pinClk = .lo → ∀ e, (t.receiver e).samples = (s.receiver e).samples ++ [s.pinDat] ∧
        (t.receiver e).regs = (s.receiver e).regs) ∧
      (s.pinsConfigured = true → s.pinClk = .hi → SameReceivers s t) ∧
      t.sr = s.sr ∧ t.dreg = s.dreg ∧ t.fld = s.fld ∧
      t.pinDat = s.pinDat ∧ t.pinLat = s.pinLat ∧ SameSlot s t ∧ SameHost s t

/-- R87: LAT_HI drives LATCH to 1 and goes on to LAT_HOLD; CLOCK and DATA stay. On output pins the receivers see it (R40):
the receiver that commits on falling edges does not change. -/
def Obligations.LatHiDrivesLatchHigh : Prop :=
  ∀ s, ∃ t, exec .latHi s = .next t ∧ t.ph = Phase.latHold ∧ t.trace = s.trace ++ [.write .latch true] ∧
    (s.pinsConfigured = true → t.pinLat = .hi ∧ t.recvFall = s.recvFall ∧
      t.recvRise = s.recvRise.onLatch (rising s.pinLat .hi)) ∧
    (s.pinsConfigured = false → t.pinLat = .x) ∧
    t.pinClk = s.pinClk ∧ t.pinDat = s.pinDat ∧ SameWorking s t ∧ SameSlot s t ∧ SameHost s t

/-- R88: LAT_HOLD appends `Hold(T_LATCH_HOLD)` and goes on to LAT_LO_END; nothing else happens. -/
def Obligations.LatHoldHoldsTheLatch : Prop :=
  ∀ s, ∃ t, exec .latHold s = .next t ∧ t.ph = Phase.latLoEnd ∧ t.trace = s.trace ++ [.hold s.tLatchHold] ∧
    SamePins s t ∧ SameWorking s t ∧ SameSlot s t ∧ SameReceivers s t ∧ SameHost s t

/-- R89: LAT_LO_END drives LATCH to 0 and appends `Done` after it in the same step; then `busy = 0`. On output pins the
receivers see the write (R40): the receiver that commits on rising edges does not change. -/
def Obligations.LatLoEndCompletesTheCommand : Prop :=
  ∀ s, ∃ t, exec .latLoEnd s = .next t ∧ t.ph = Phase.idle ∧ t.busy = false ∧
    t.trace = s.trace ++ [.write .latch false, .done] ∧
    (s.pinsConfigured = true → t.pinLat = .lo ∧ t.recvRise = s.recvRise ∧
      t.recvFall = s.recvFall.onLatch (falling s.pinLat .lo)) ∧
    (s.pinsConfigured = false → t.pinLat = .x) ∧
    t.pinClk = s.pinClk ∧ t.pinDat = s.pinDat ∧ SameWorking s t ∧ SameSlot s t ∧ SameHost s t

/-! ### The host command -/

/-- R71, R73 and R25, the host's write: with the slot free, SEND's move writes the three slot registers in one step and
leaves the host waiting for the command; nothing else changes. That a SEND is the host's one move of its call, and how the
host's place in the call is held, are the model's own (logs 3 and 12). -/
def Obligations.SendWritesTheFreeSlot : Prop :=
  ∀ s a d, s.cmdValid = false → s.busy = false → s.hostWaiting = false → ∃ t, exec (.send a d) s = .next t ∧
    t.cmdAddr = .val a ∧ t.cmdData = .val d ∧ t.cmdValid = true ∧ t.hostWaiting = true ∧
    t.ph = s.ph ∧ t.trace = s.trace ∧ SameWorking s t ∧ SamePins s t ∧ SameReceivers s t ∧
    t.hostProgram = s.hostProgram ∧ t.pinsConfigured = s.pinsConfigured ∧ t.tLatchHold = s.tLatchHold ∧
    t.schedule = s.schedule

/-- R72 and R73, the host's two waits and its return: while `cmd_valid = 1` or `busy = 1` the move of a SEND changes nothing;
and a SEND that has written the slot returns once both are 0, the host going on to its next command and nothing else
changing. The form of a move is the model's own (logs 3 and 12). -/
def Obligations.SendWaitsWhileTakenAndReturnsWhenFree : Prop :=
  (∀ s a d, s.cmdValid = true ∨ s.busy = true → exec (.send a d) s = .next s) ∧
  ∀ s a d, s.cmdValid = false → s.busy = false → s.hostWaiting = true → ∃ t, exec (.send a d) s = .next t ∧
    t.hostWaiting = false ∧ t.hostProgram = s.hostProgram.tail ∧
    t.ph = s.ph ∧ t.trace = s.trace ∧ SameWorking s t ∧ SameSlot s t ∧ SamePins s t ∧ SameReceivers s t ∧
    t.pinsConfigured = s.pinsConfigured ∧ t.tLatchHold = s.tLatchHold ∧ t.schedule = s.schedule

/-- R25 over every step: the slot is filled only by the host, only while `cmd_valid = 0` and `busy = 0`, with the arguments
of its command; and it is emptied only by a reset or by ACCEPT, which takes the command. Who moves at a step is the
schedule's (log 2). -/
def Obligations.SlotFilledByHostTakenByAccept : Prop :=
  ∀ s t, step s = .next t →
    (s.cmdValid = false → t.cmdValid = true → s.nextTurn = .host ∧ s.busy = false ∧
      ∃ c rest, s.hostProgram = c :: rest ∧ t.cmdAddr = .val c.addr ∧ t.cmdData = .val c.data) ∧
    (s.cmdValid = true → t.cmdValid = false → s.nextTurn = .sequencer true ∨
      (s.nextTurn = .sequencer false ∧ s.busy = false ∧
        ∃ a d, s.cmdAddr = .val a ∧ s.cmdData = .val d ∧ t.trace = s.trace ++ [.accept a d]))

/-! ### One whole SEND -/

/-- R75: one SEND appends exactly these 42 events, in this order, and takes 53 sequencer steps. From every state in which
the host may write the slot, with the pins configured (R115): the host's move and 53 sequencer steps append the events
built from the frame of R36. -/
def Obligations.SendAppendsExactlyThisTrace : Prop :=
  ∀ s a d, s.slotFree = true → s.hostWaiting = false → s.pinsConfigured = true →
    ∃ u t, exec (.send a d) s = .next u ∧ runSequencer 53 u = .next t ∧
      t.trace = s.trace ++ frameEvents s.tLatchHold a d ∧ (frameEvents s.tLatchHold a d).length = 42 ∧
      frameEvents s.tLatchHold a d =
        [.accept a d, .write .latch false] ++
        (List.range 12).flatMap (fun n =>
          [.write .clock false, .write .data (if n ≤ 3 then a.getLsbD n else d.getLsbD (n - 4)), .write .clock true]) ++
        [.write .latch true, .hold s.tLatchHold, .write .latch false, .done]

/-- R74: the end state of a SEND, whatever the pin levels before it. That the host is still inside its call then, with its
program as it was, is the model's own way of holding the host (logs 3 and 12). -/
def Obligations.SendEndState : Prop :=
  ∀ s a d, s.ph = Phase.idle → s.cmdValid = false → s.hostWaiting = false → s.pinsConfigured = true →
    ∃ u t, exec (.send a d) s = .next u ∧ runSequencer 53 u = .next t ∧
      t.ph = Phase.idle ∧ t.busy = false ∧ t.cmdValid = false ∧
      t.pinClk = .hi ∧ t.pinDat = levelOf (d.getLsbD 7) ∧ t.pinLat = .lo ∧
      t.sr = .val 0x00 ∧ t.dreg = .val d ∧ t.cnt = .val 0 ∧ t.fld = .val .data ∧
      t.cmdAddr = .val a ∧ t.cmdData = .val d ∧ t.hostProgram = s.hostProgram ∧ t.hostWaiting = true ∧
      t.pinsConfigured = true ∧ t.tLatchHold = s.tLatchHold ∧ t.schedule = s.schedule

/-- The sequencer's steps and R71's pseudocode agree (R75): the state after the 53 steps is the one that the composite
description of the command gives, the receivers having seen the events that the pseudocode emits. -/
def Obligations.SequencerRefinesTheCommand : Prop :=
  ∀ s a d, s.ph = Phase.idle → s.cmdValid = true → s.cmdAddr = .val a → s.cmdData = .val d → s.pinsConfigured = true →
    runSequencer 53 s = .next (s.afterSend a d) ∧ sendEvents s.tLatchHold a d = frameEvents s.tLatchHold a d

/-- R52, the source's frame property: the samples that one SEND produces at the CLOCK rising edges are exactly
`f_0 .. f_11`, for every address argument, data argument and levels before it. -/
def Obligations.SamplesOfASendAreItsFrame : Prop :=
  ∀ s a d, s.slotFree = true → s.hostWaiting = false → s.pinsConfigured = true →
    ∃ u t es, exec (.send a d) s = .next u ∧ runSequencer 53 u = .next t ∧ t.trace = s.trace ++ es ∧
      atClockRises .data s.pinClk s.pinDat es = (frame a d).map levelOf

/-- R53, the source's latch property: LATCH is 0 from the start of the frame through the 12th CLOCK rising edge, then
rises exactly once and falls exactly once. The events of a SEND are `Accept`, a part that first writes LATCH to 0, never
writes it to 1 and holds the 12 rising edges, and a part without any in which LATCH rises once and falls once. -/
def Obligations.LatchPulsesOnlyAfterTheTwelfthBit : Prop :=
  ∀ s a d, s.slotFree = true → s.hostWaiting = false → s.pinsConfigured = true →
    ∃ u t bits pulse, exec (.send a d) s = .next u ∧ runSequencer 53 u = .next t ∧
      t.trace = s.trace ++ .accept a d :: .write .latch false :: (bits ++ pulse) ∧
      (∀ b, Event.write .latch b ∉ bits) ∧
      atClockRises .latch s.pinClk .lo bits = List.replicate 12 .lo ∧
      (∀ b, Event.write .clock b ∉ pulse) ∧
      edgeCount rising .latch .lo pulse = { sure := 1, possible := 0 } ∧
      edgeCount falling .latch .lo pulse = { sure := 1, possible := 0 }

/-- R76: the edges in one SEND by the levels before it, and that no DATA write falls while CLOCK is 1: its twelve DATA writes
are all made with CLOCK at 0, the latch pulse included in the piece of trace. So none falls in a sampling window of R51
either, even one left open before it. -/
def Obligations.EdgesOfOneSend : Prop :=
  ∀ s a d, s.slotFree = true → s.hostWaiting = false → s.pinsConfigured = true →
    ∃ u t es, exec (.send a d) s = .next u ∧ runSequencer 53 u = .next t ∧ t.trace = s.trace ++ es ∧
      edgeCount rising .clock s.pinClk es = { sure := 12, possible := 0 } ∧
      edgeCount falling .clock s.pinClk es =
        (match s.pinClk with
         | .hi => { sure := 12, possible := 0 }
         | .lo => { sure := 11, possible := 0 }
         | .x => { sure := 11, possible := 1 }) ∧
      edgeCount rising .latch s.pinLat es = { sure := 1, possible := 0 } ∧
      edgeCount falling .latch s.pinLat es =
        (match s.pinLat with
         | .hi => { sure := 2, possible := 0 }
         | .lo => { sure := 1, possible := 0 }
         | .x => { sure := 1, possible := 1 }) ∧
      clockAtDataWrites s.pinClk es = List.replicate 12 .lo ∧
      dataStable true es = true

/-- R91: from ACCEPT the sequencer reaches IDLE in exactly 53 steps counting ACCEPT, for every argument. -/
def Obligations.IdleAgainInExactlyFiftyThreeSteps : Prop :=
  ∀ s a d, s.ph = Phase.idle → s.cmdValid = true → s.cmdAddr = .val a → s.cmdData = .val d → s.pinsConfigured = true →
    ∀ k, k ≤ 53 → ∃ t, runSequencer k s = .next t ∧ (t.ph = Phase.idle ↔ k = 0 ∨ k = 53)

/-- R93: in the k-th cell of the address field `SR[0] = cmd_addr[k]` at DAT_SET, in the k-th cell of the data field
`SR[0] = cmd_data[k]`, and DAT_SET drives that bit, which is `f_k` and `f_{4+k}`. -/
def Obligations.EachCellDrivesItsBit : Prop :=
  ∀ s a d, s.ph = Phase.idle → s.cmdValid = true → s.cmdAddr = .val a → s.cmdData = .val d → s.pinsConfigured = true →
    (∀ k, k ≤ 3 → ∃ t v u, runSequencer (3 + 4 * k) s = .next t ∧ t.ph = Phase.datSet ∧ t.sr = .val v ∧
      v.getLsbD 0 = a.getLsbD k ∧ frameBit a d k = a.getLsbD k ∧
      exec .datSet t = .next u ∧ u.trace = t.trace ++ [.write .data (frameBit a d k)]) ∧
    (∀ k, k ≤ 7 → ∃ t v u, runSequencer (19 + 4 * k) s = .next t ∧ t.ph = Phase.datSet ∧ t.sr = .val v ∧
      v.getLsbD 0 = d.getLsbD k ∧ frameBit a d (4 + k) = d.getLsbD k ∧
      exec .datSet t = .next u ∧ u.trace = t.trace ++ [.write .data (frameBit a d (4 + k))])

/-- R78: the events of a SEND after its `Accept` depend only on `a[3:0]`, `d` and the latch hold, whatever two states the
two commands start from (their stale registers, levels and histories). -/
def Obligations.WireEventsDependOnAddressNibbleAndData : Prop :=
  ∀ s s' a a' d, s.slotFree = true → s.hostWaiting = false → s.pinsConfigured = true →
    s'.slotFree = true → s'.hostWaiting = false → s'.pinsConfigured = true →
    txAddr a = txAddr a' → s.tLatchHold = s'.tLatchHold →
    ∃ u u' t t' es, exec (.send a d) s = .next u ∧ exec (.send a' d) s' = .next u' ∧
      runSequencer 53 u = .next t ∧ runSequencer 53 u' = .next t' ∧
      t.trace = s.trace ++ .accept a d :: es ∧ t'.trace = s'.trace ++ .accept a' d :: es

/-! ### The receiver -/

/-- R40: the reference receiver. At a CLOCK rising edge it appends the DATA level to its samples. At a LATCH edge of its
kind it does nothing with no sample; with exactly 12 it writes `RecvReg[{s_3,..,s_0}] <- {s_11,..,s_4}` and no other
register; with any other number nothing is said of `RecvReg`; and in every case it clears the samples. -/
def Obligations.ReceiverCommitsTwelveSamples : Prop :=
  ∀ (e : CommitEdge) (o : Observation),
    (o.clk = .lo → ((Observation.event e o (.write .clock true)).recv =
      { samples := o.recv.samples ++ [o.dat], regs := o.recv.regs })) ∧
    ∀ b, e.seenIn o.lat (levelOf b) = .yes →
      ∃ r : Receiver, (Observation.event e o (.write .latch b)).recv = r ∧ r.samples = [] ∧
        (o.recv.samples.length = 0 → r.regs = o.recv.regs) ∧
        (o.recv.samples.length ≠ 0 → o.recv.samples.length ≠ 12 → ∀ k, r.regs.read k = none) ∧
        ∀ (bits : List Bool) (addr : Nibble) (data : Byte) (m : List Host.Cell),
          o.recv.samples = bits.map levelOf → bits.length = 12 → o.recv.regs = .known m →
          (∀ i, i < 4 → bits[i]? = some (addr.getLsbD i)) → (∀ j, j < 8 → bits[4 + j]? = some (data.getLsbD j)) →
          r.regs.read addr = some (.val data) ∧ ∀ k, k ≠ addr → r.regs.read k = o.recv.regs.read k

/-- Where a LATCH micro-operation stores (R40, R42): only at the register that the held samples address, and only at an
edge of the receiver's kind; every other receiver register reads as before. -/
def Obligations.LatchMicroOperationsStoreAtTheSampledAddress : Prop :=
  ∀ s t i b e bits m, (i = Instr.latLoStart ∧ b = false) ∨ (i = Instr.latHi ∧ b = true) ∨ (i = Instr.latLoEnd ∧ b = false) →
    s.pinsConfigured = true → (s.receiver e).regs = .known m →
    (s.receiver e).samples = bits.map levelOf → bits.length = 12 → exec i s = .next t →
    (e.seenIn s.pinLat (levelOf b) = .yes →
      (t.receiver e).regs.read (frameAddr (frameWordOf bits)) = some (.val (frameData (frameWordOf bits))) ∧
      ∀ k, k ≠ frameAddr (frameWordOf bits) → (t.receiver e).regs.read k = (s.receiver e).regs.read k) ∧
    (e.seenIn s.pinLat (levelOf b) = .no → t.receiver e = s.receiver e)

/-- A SEND that finds the receiver with no sample writes `RecvReg[a[3:0]] <- d` under either commit edge, and no other
register (R40 to R42), whatever the levels before it. -/
def Obligations.SendWritesOneReceiverRegister : Prop :=
  ∀ s a d m e, s.slotFree = true → s.hostWaiting = false → s.pinsConfigured = true →
    (s.receiver e).samples = [] → (s.receiver e).regs = .known m →
    ∃ u t, exec (.send a d) s = .next u ∧ runSequencer 53 u = .next t ∧ (t.receiver e).samples = [] ∧
      (t.receiver e).regs.read (txAddr a) = some (.val d) ∧
      ∀ k, k ≠ txAddr a → (t.receiver e).regs.read k = (s.receiver e).regs.read k

/-- The receivers that the state carries are the observation function of R40 applied to its trace, and its pin levels are
the levels that the trace leaves: this holds at power-on, and every step keeps it. -/
def Obligations.CarriedReceiversObserveTheTrace : Prop :=
  (∀ program turns t, (State.launch program turns t).Observes) ∧
  ∀ s t, s.Inv → s.Observes → step s = .next t → t.Observes

/-- R41 for runs without a reset after power-on: at every point but between the two LATCH edges of a command the receivers
of the two commit edges are the same. -/
def Obligations.BothCommitEdgesAgreeWithoutReset : Prop :=
  ∀ program turns t k s, (∀ x ∈ turns, x ≠ Turn.sequencer true) →
    runSteps k (State.launch program turns t) = .next s →
    s.ph = Phase.latHold ∨ s.ph = Phase.latLoEnd ∨ s.recvRise = s.recvFall

/-- R113, a reset after `k` of a command's steps, the receivers having held no sample before it: the remaining events are
never appended and there is no `Done` (the slot is empty, and however many sequencer steps follow change nothing), the pins
become `X`, and the receivers hold what the rows of R113's table start from: nothing (first row), 1 to 11 samples, 12 samples, or, after LAT_HI on the receiver that commits on rising edges,
the committed register. That a reset leaves the receivers alone is decision D16. -/
def Obligations.ResetDuringACommand : Prop :=
  ∀ s a d, s.ph = Phase.idle → s.cmdValid = true → s.cmdAddr = .val a → s.cmdData = .val d → s.pinsConfigured = true →
    s.recvRise.samples = [] → s.recvFall.samples = [] →
    ∀ k, 1 ≤ k → k ≤ 52 → ∃ v t es, runSequencer k s = .next v ∧ v.ph ≠ Phase.idle ∧ sequencerStep true v = .next t ∧
      t.trace = s.trace ++ es ++ [.reset] ∧ Event.done ∉ es ∧ (∃ rest, frameEvents s.tLatchHold a d = es ++ rest) ∧
      t.pinClk = .x ∧ t.pinDat = .x ∧ t.pinLat = .x ∧ t.ph = Phase.idle ∧
      t.cmdValid = false ∧ (∀ j, runSequencer j t = .next t) ∧
      (k ≤ 5 → t.recvRise = s.recvRise ∧ t.recvFall = s.recvFall) ∧
      (6 ≤ k → k ≤ 50 → t.recvRise.samples.length = (k - 2) / 4 ∧ t.recvFall.samples.length = (k - 2) / 4 ∧
        t.recvRise.regs = s.recvRise.regs ∧ t.recvFall.regs = s.recvFall.regs) ∧
      (51 ≤ k → t.recvRise.samples = [] ∧ t.recvRise.regs = s.recvRise.regs.memWrite (txAddr a) d ∧
        t.recvFall.samples.length = 12 ∧ t.recvFall.regs = s.recvFall.regs)

/-- R113, the next command after a reset that left samples behind: with the pins at `X` and a sample held, its SEND leaves
`RecvReg` unspecified under either commit edge, and no later step says anything of it again (R40). For the receiver that
commits on falling edges this rests on how the model reads an edge from `X` (log 9). -/
def Obligations.LeftoverSamplesLeaveTheRegistersUnspecified : Prop :=
  (∀ s a d e, s.ph = Phase.idle → s.cmdValid = true → s.cmdAddr = .val a → s.cmdData = .val d → s.pinsConfigured = true →
    s.pinLat = .x → (s.receiver e).samples ≠ [] →
    ∃ t, runSequencer 53 s = .next t ∧ ∀ k, (t.receiver e).regs.read k = none) ∧
  ∀ s t e, step s = .next t → (s.receiver e).regs = .unspecified → ∀ k, (t.receiver e).regs.read k = none

/-! ### Over every step and every reachable state -/

/-- The invariant holds at every launch: power-on with any program, turns and latch hold. -/
def Obligations.LaunchMeetsTheInvariant : Prop :=
  ∀ program turns t, (State.launch program turns t).Inv

/-- Every step keeps the invariant, from every state that meets it. -/
def Obligations.EveryStepKeepsTheInvariant : Prop := ∀ s t, s.Inv → step s = .next t → t.Inv

/-- Every state that meets the invariant has a next state: no step from it faults or is refused. -/
def Obligations.InvariantStatesAlwaysStep : Prop := ∀ s, s.Inv → ∃ t, step s = .next t

/-- R30: every state reachable from reset satisfies all of its clauses. -/
def Obligations.ReachableStatesMeetRuleThirty : Prop := ∀ s, Reachable s → s.RuleThirty

/-- R98: the conditions of the three model faults, that none can be reached from reset, and that a fault is final. Which
registers a micro-operation reads is R81 and R84 to R86; that CLK_HI reads `CNT` and `FLD` before its range test and `DREG`
at the field switch only is the model's reading (log 13), and a fault is final as the outcome that ends a run (log 11). -/
def Obligations.ModelFaultsAndTheirConditions : Prop :=
  (∀ s, sequencerStep false s = .fault .reservedPhase ↔ 9 ≤ s.ph.toNat) ∧
  (∀ s, sequencerStep false s = .fault .counterOutOfRange ↔
    s.ph = Phase.clkHi ∧ ∃ n f, s.cnt = .val n ∧ s.fld = .val f ∧
      ¬((f = .addr ∧ 1 ≤ n.toNat ∧ n.toNat ≤ 4) ∨ (f = .data ∧ 1 ≤ n.toNat ∧ n.toNat ≤ 8))) ∧
  (∀ s, sequencerStep false s = .fault .readUndefined ↔
    (s.ph = Phase.idle ∧ s.cmdValid = true ∧ (s.cmdAddr = .undef ∨ s.cmdData = .undef)) ∨
    ((s.ph = Phase.datSet ∨ s.ph = Phase.shift) ∧ s.sr = .undef) ∨
    (s.ph = Phase.clkHi ∧ (s.cnt = .undef ∨ s.fld = .undef ∨
      (s.cnt = .val 1 ∧ s.fld = .val .addr ∧ s.dreg = .undef)))) ∧
  (∀ s f, Reachable s → step s ≠ .fault f) ∧
  (∀ s f k, step s = .fault f → runSteps (k + 1) s = .fault f)

/-- R64: a step taken with `PH` at a reserved code is the fault `ReservedPhase`; no operation writes such a code, and reset
does not produce one. -/
def Obligations.ReservedPhasesFaultAndAreNeverWritten : Prop :=
  (∀ s, 9 ≤ s.ph.toNat → sequencerStep false s = .fault .reservedPhase) ∧
  (∀ i s t, exec i s = .next t → t.ph ≠ s.ph → t.ph.toNat ≤ 8) ∧
  (∀ s t, sequencerStep true s = .next t → t.ph = 0b0000#4)

/-- R90: the complete successor relation of `PH`. -/
def Obligations.PhaseSuccessors : Prop :=
  (∀ s t, sequencerStep true s = .next t → t.ph = Phase.idle) ∧
  (∀ s, 9 ≤ s.ph.toNat → sequencerStep false s = .fault .reservedPhase) ∧
  ∀ s t, sequencerStep false s = .next t →
    (s.ph = Phase.idle → s.cmdValid = false → t.ph = Phase.idle) ∧
    (s.ph = Phase.idle → s.cmdValid = true → t.ph = Phase.latLoStart) ∧
    (s.ph = Phase.latLoStart → t.ph = Phase.clkLo) ∧
    (s.ph = Phase.clkLo → t.ph = Phase.datSet) ∧
    (s.ph = Phase.datSet → t.ph = Phase.shift) ∧
    (s.ph = Phase.shift → t.ph = Phase.clkHi) ∧
    (s.ph = Phase.clkHi → ∀ n f, s.cnt = .val n → s.fld = .val f →
      (2 ≤ n.toNat → t.ph = Phase.clkLo) ∧
      (n.toNat = 1 → f = .addr → t.ph = Phase.clkLo) ∧
      (n.toNat = 1 → f = .data → t.ph = Phase.latHi)) ∧
    (s.ph = Phase.latHi → t.ph = Phase.latHold) ∧
    (s.ph = Phase.latHold → t.ph = Phase.latLoEnd) ∧
    (s.ph = Phase.latLoEnd → t.ph = Phase.idle)

/-- Which operation may change which pin, over every operation (R14, R22), and that a pin keeps its level otherwise (R23):
CLOCK only CLK_LO and CLK_HI, DATA only DAT_SET, LATCH only LAT_LO_START, LAT_HI and LAT_LO_END; and an operation writes
at most one pin (R79). The same for the working registers (R14): `SR` only ACCEPT, SHIFT and CLK_HI, `DREG` only ACCEPT,
`CNT` and `FLD` only ACCEPT and CLK_HI. -/
def Obligations.EachPinAndRegisterHasItsWriters : Prop :=
  ∀ i s t, exec i s = .next t →
    (i ≠ .clkLo → i ≠ .clkHi → t.pinClk = s.pinClk) ∧
    (i ≠ .datSet → t.pinDat = s.pinDat) ∧
    (i ≠ .latLoStart → i ≠ .latHi → i ≠ .latLoEnd → t.pinLat = s.pinLat) ∧
    (i ≠ .accept → i ≠ .shift → i ≠ .clkHi → t.sr = s.sr) ∧
    (i ≠ .accept → t.dreg = s.dreg) ∧
    (i ≠ .accept → i ≠ .clkHi → t.cnt = s.cnt ∧ t.fld = s.fld) ∧
    ∃ es, t.trace = s.trace ++ es ∧
      (es.filter fun ev => match ev with
        | .write _ _ => true
        | .accept _ _ => false
        | .hold _ => false
        | .done => false
        | .reset => false).length ≤ 1

/-- No operation reads a pin, and there is no read path from the receiver (R22, R43, R92): whatever the levels and the
receivers are replaced by, an operation that answers a next state still does, with the same block, trace and host. -/
def Obligations.NoOperationReadsAPinOrTheReceiver : Prop :=
  ∀ i s t clk dat lat rise fall, exec i s = .next t →
    ∃ u, exec i { s with pinClk := clk, pinDat := dat, pinLat := lat, recvRise := rise, recvFall := fall } = .next u ∧
      u.ph = t.ph ∧ SameWorking t u ∧ SameSlot t u ∧ u.trace = t.trace ∧ SameHost t u

/-- The trace only grows, by events appended at its end (R8, R33), and the latch hold is a parameter that no step changes
(R6). -/
def Obligations.TraceOnlyGrows : Prop :=
  ∀ s t, step s = .next t → (∃ es, t.trace = s.trace ++ es) ∧ t.tLatchHold = s.tLatchHold

/-- R51: in every trace the block produces, no DATA write falls between a `Write(CLOCK, 1)` and the next `Write(CLOCK, 0)` or
`Write(LATCH, 1)`. -/
def Obligations.DataStableWhileClockHigh : Prop := ∀ s, Reachable s → dataStable false s.trace = true

/-- Every latch hold in a trace of the block is at least `T_LATCH_HOLD_MIN` = 250 ns (R88, R117), the premise on the parameter
being part of what is reachable. -/
def Obligations.EveryLatchHoldMeetsTheMinimum : Prop :=
  ∀ s t, Reachable s → Event.hold t ∈ s.trace → 250 ≤ t

/-- Progress (R123): from a state that meets the invariant, whenever `PH` is not IDLE or a command waits, the sequencer has a
step, which changes the state; and with no turn scheduled that step is the one taken (the default turn, log 2). -/
def Obligations.SequencerProgress : Prop :=
  ∀ s, s.Inv → s.ph ≠ Phase.idle ∨ s.cmdValid = true →
    (∃ t, sequencerStep false s = .next t ∧ t ≠ s) ∧ (s.schedule = [] → s.nextTurn = .sequencer false)

/-- R72 and R110: a SEND that no reset interrupts always returns, after exactly the trace of R75. With no turns scheduled,
the host's write, the command's 53 steps and the host's return are 55 steps, after which the host is at its next
command. The order of moves is the
default turn's (log 2). -/
def Obligations.UninterruptedSendReturns : Prop :=
  ∀ s c rest, s.slotFree = true → s.hostWaiting = false → s.pinsConfigured = true → s.hostProgram = c :: rest →
    s.schedule = [] →
    ∃ t, runSteps 55 s = .next t ∧ t.hostProgram = rest ∧ t.hostWaiting = false ∧ t.slotFree = true ∧
      t.trace = s.trace ++ frameEvents s.tLatchHold c.addr c.data

/-- A whole host program (R114, R116, R122): from power-on with no turns scheduled, pin setup and then every command in order;
the run ends with the trace of the commands one after another and, under either commit edge, the receiver's memory as
the writes in order leave it. The order of moves is
the default turn's (log 2), and the program is given at launch (log 4). -/
def Obligations.HostProgramRunsToItsEnd : Prop :=
  ∀ program t, ∃ s, runSteps (1 + 55 * program.length) (State.launch program [] t) = .next s ∧ s.Finished ∧
    s.hostWaiting = false ∧
    s.trace = .reset :: program.flatMap (fun c => frameEvents t c.addr c.data) ∧
    ∀ e, s.receiver e =
      { samples := [],
        regs := .known (program.foldl (fun m c => cellsWrite m (txAddr c.addr).toNat c.data) []) }

/-! ### Host program text -/

/-- R68 on the lines that this spec's own spelling writes: the text of any list of commands, one `SEND` line each with its
two literals in hexadecimal, is read back as that list. Blanks and lines are
spelled as log 16 says. -/
def Obligations.ProgramTextIsReadBack : Prop := ∀ cs : List Command, textProgram (programText cs) = .ok cs

/-- R68: a literal outside 0 to 255 is refused and one inside is accepted, an address from 16 to 255 among them. -/
def Obligations.LiteralsOutsideAByteAreRefused : Prop :=
  ∀ p : SendStmt,
    (p.addr ≤ 255 → p.data ≤ 255 → ∃ c, checkedCommand p = .ok c ∧ c.addr.toNat = p.addr ∧ c.data.toNat = p.data) ∧
    (255 < p.addr ∨ 255 < p.data → checkedCommand p = .error .literalOutOfRange)
end

