-- ==== Sys2Proof/Laws/Decode.lean ====
section
/-! SUPPORT. The decoder, row by row, and the two directions of the encoding tables that the operations need. -/

namespace Sys2Proof.Machine

open Sys2Proof

/-- The rows of R63's table do not overlap: every selector word falls under at most one. -/
theorem selectorRows_disjoint :
    ∀ w : BitVec 5, (selectorRows.filter fun r => r.covers w).length ≤ 1 := by decide

theorem decodeSelector_idle (v : Bool) :
    decodeSelector (selectorWord v Phase.idle) = .ok (if v then .accept else .idle) := by cases v <;> decide
theorem decodeSelector_latLoStart (v : Bool) :
    decodeSelector (selectorWord v Phase.latLoStart) = .ok .latLoStart := by cases v <;> decide
theorem decodeSelector_clkLo (v : Bool) :
    decodeSelector (selectorWord v Phase.clkLo) = .ok .clkLo := by cases v <;> decide
theorem decodeSelector_datSet (v : Bool) :
    decodeSelector (selectorWord v Phase.datSet) = .ok .datSet := by cases v <;> decide
theorem decodeSelector_shift (v : Bool) :
    decodeSelector (selectorWord v Phase.shift) = .ok .shift := by cases v <;> decide
theorem decodeSelector_clkHi (v : Bool) :
    decodeSelector (selectorWord v Phase.clkHi) = .ok .clkHi := by cases v <;> decide
theorem decodeSelector_latHi (v : Bool) :
    decodeSelector (selectorWord v Phase.latHi) = .ok .latHi := by cases v <;> decide
theorem decodeSelector_latHold (v : Bool) :
    decodeSelector (selectorWord v Phase.latHold) = .ok .latHold := by cases v <;> decide
theorem decodeSelector_latLoEnd (v : Bool) :
    decodeSelector (selectorWord v Phase.latLoEnd) = .ok .latLoEnd := by cases v <;> decide

theorem decodeSelector_reserved :
    ∀ (v : Bool) (ph : Nibble), phaseReserved ph = true →
      decodeSelector (selectorWord v ph) = .error (.reservedPhase ph) := by decide

/-- A phase code is one of the nine named ones or reserved (R20, R64). -/
theorem phase_cases :
    ∀ ph : Nibble, ph = Phase.idle ∨ ph = Phase.latLoStart ∨ ph = Phase.clkLo ∨ ph = Phase.datSet ∨ ph = Phase.shift ∨
      ph = Phase.clkHi ∨ ph = Phase.latHi ∨ ph = Phase.latHold ∨ ph = Phase.latLoEnd ∨ phaseReserved ph = true := by
  decide

section
variable {s : State}

/-- What the sequencer performs, phase by phase (R79). -/
theorem sequencerStep_idle (h : s.ph = Phase.idle) (hv : s.cmdValid = false) : sequencerStep false s = execIdle s := by
  simp [sequencerStep, State.nextMicroOp, State.selector, decode, h, hv, decodeSelector_idle, exec]
theorem sequencerStep_accept (h : s.ph = Phase.idle) (hv : s.cmdValid = true) :
    sequencerStep false s = execAccept s := by
  simp [sequencerStep, State.nextMicroOp, State.selector, decode, h, hv, decodeSelector_idle, exec]
theorem sequencerStep_latLoStart (h : s.ph = Phase.latLoStart) : sequencerStep false s = execLatLoStart s := by
  simp [sequencerStep, State.nextMicroOp, State.selector, decode, h, decodeSelector_latLoStart, exec]
theorem sequencerStep_clkLo (h : s.ph = Phase.clkLo) : sequencerStep false s = execClkLo s := by
  simp [sequencerStep, State.nextMicroOp, State.selector, decode, h, decodeSelector_clkLo, exec]
theorem sequencerStep_datSet (h : s.ph = Phase.datSet) : sequencerStep false s = execDatSet s := by
  simp [sequencerStep, State.nextMicroOp, State.selector, decode, h, decodeSelector_datSet, exec]
theorem sequencerStep_shift (h : s.ph = Phase.shift) : sequencerStep false s = execShift s := by
  simp [sequencerStep, State.nextMicroOp, State.selector, decode, h, decodeSelector_shift, exec]
theorem sequencerStep_clkHi (h : s.ph = Phase.clkHi) : sequencerStep false s = execClkHi s := by
  simp [sequencerStep, State.nextMicroOp, State.selector, decode, h, decodeSelector_clkHi, exec]
theorem sequencerStep_latHi (h : s.ph = Phase.latHi) : sequencerStep false s = execLatHi s := by
  simp [sequencerStep, State.nextMicroOp, State.selector, decode, h, decodeSelector_latHi, exec]
theorem sequencerStep_latHold (h : s.ph = Phase.latHold) : sequencerStep false s = execLatHold s := by
  simp [sequencerStep, State.nextMicroOp, State.selector, decode, h, decodeSelector_latHold, exec]
theorem sequencerStep_latLoEnd (h : s.ph = Phase.latLoEnd) : sequencerStep false s = execLatLoEnd s := by
  simp [sequencerStep, State.nextMicroOp, State.selector, decode, h, decodeSelector_latLoEnd, exec]

@[simp] theorem sequencerStep_rst : sequencerStep true s = .next s.resetAction := rfl

end

end Sys2Proof.Machine
end

