-- ==== Sys2Proof/Laws/Memory.lean ====
section
/-! SUPPORT. The laws of the receiver's memory and of the reference receiver: reading after writing, and that every
operation keeps the canonical form. -/

namespace Sys2Proof.Machine

open Sys2Proof

@[simp] theorem cellsRead_nil (a : Nat) : cellsRead [] a = .undef := rfl

/-- What is written is read back. -/
theorem cellsRead_cellsWrite_same (m : List Host.Cell) (a : Nat) (v : Byte) :
    cellsRead (cellsWrite m a v) a = .val v := by
  induction m with
  | nil => simp [cellsWrite, cellsRead]
  | cons c rest ih =>
    obtain ⟨k, b⟩ := c
    by_cases h1 : a < k
    · simp [cellsWrite, cellsRead, h1]
    · by_cases h2 : a = k
      · simp [cellsWrite, cellsRead, h2]
      · simp [cellsWrite, cellsRead, h1, h2, Ne.symm h2, ih]

/-- A write leaves every other address alone. -/
theorem cellsRead_cellsWrite_other (m : List Host.Cell) (a k : Nat) (v : Byte) (h : k ≠ a) :
    cellsRead (cellsWrite m a v) k = cellsRead m k := by
  induction m with
  | nil => simp [cellsWrite, cellsRead, Ne.symm h]
  | cons c rest ih =>
    obtain ⟨j, b⟩ := c
    by_cases h1 : a < j
    · simp [cellsWrite, cellsRead, h1, Ne.symm h]
    · by_cases h2 : a = j
      · subst h2
        simp [cellsWrite, cellsRead, Ne.symm h]
      · by_cases h3 : j = k
        · subst h3
          simp [cellsWrite, cellsRead, h1, h2]
        · simp [cellsWrite, cellsRead, h1, h2, h3, ih]

theorem cellsAbove_weaken {lo lo' : Nat} (h : lo' ≤ lo) :
    ∀ m : List Host.Cell, cellsAbove (some lo) m = true → cellsAbove (some lo') m = true
  | [], _ => rfl
  | (k, b) :: rest, hm => by
    simp only [cellsAbove, Bool.and_eq_true, decide_eq_true_eq] at hm ⊢
    exact ⟨⟨by omega, hm.1.2⟩, hm.2⟩

/-- A write above a bound keeps the cells above it. -/
theorem cellsWrite_above (m : List Host.Cell) (lo a : Nat) (v : Byte) (ha : a < 16) (hlo : lo < a)
    (h : cellsAbove (some lo) m = true) : cellsAbove (some lo) (cellsWrite m a v) = true := by
  induction m generalizing lo with
  | nil => simp [cellsWrite, cellsAbove, ha, hlo]
  | cons c rest ih =>
    obtain ⟨k, b⟩ := c
    simp only [cellsAbove, Bool.and_eq_true, decide_eq_true_eq] at h
    by_cases h1 : a < k
    · simp [cellsWrite, cellsAbove, h1, ha, hlo, h.1.2, h.2]
    · by_cases h2 : a = k
      · subst h2
        simp [cellsWrite, cellsAbove, ha, hlo, h.2]
      · simp [cellsWrite, cellsAbove, h1, h2, h.1.1, h.1.2, ih k (by omega) h.2]

/-- Every write of one of the 16 registers keeps the canonical form. -/
theorem cellsWrite_wf (m : List Host.Cell) (a : Nat) (v : Byte) (ha : a < 16) (h : Memory.wf m = true) :
    Memory.wf (cellsWrite m a v) = true := by
  cases m with
  | nil => simp [Memory.wf, cellsWrite, cellsAbove, ha]
  | cons c rest =>
    obtain ⟨k, b⟩ := c
    simp only [Memory.wf, cellsAbove, Bool.and_eq_true, decide_eq_true_eq] at h ⊢
    by_cases h1 : a < k
    · simp [cellsWrite, cellsAbove, h1, ha, h.1, h.2]
    · by_cases h2 : a = k
      · subst h2
        simp [cellsWrite, cellsAbove, ha, h.2]
      · simp [cellsWrite, cellsAbove, h1, h2, h.1, cellsWrite_above rest k a v ha (by omega) h.2]

@[simp] theorem RecvRegs.memWrite_unspecified (a : Nibble) (v : Byte) :
    RecvRegs.unspecified.memWrite a v = .unspecified := rfl

@[simp] theorem RecvRegs.read_unspecified (a : Nibble) : RecvRegs.unspecified.read a = none := rfl

theorem RecvRegs.read_memWrite_same (m : List Host.Cell) (a : Nibble) (v : Byte) :
    ((RecvRegs.known m).memWrite a v).read a = some (.val v) := by
  simp [RecvRegs.memWrite, RecvRegs.read, cellsRead_cellsWrite_same]

theorem RecvRegs.read_memWrite_other (r : RecvRegs) (a k : Nibble) (v : Byte) (h : k ≠ a) :
    (r.memWrite a v).read k = r.read k := by
  cases r with
  | known m =>
    have : k.toNat ≠ a.toNat := fun e => h (BitVec.eq_of_toNat_eq e)
    simp [RecvRegs.memWrite, RecvRegs.read, cellsRead_cellsWrite_other m a.toNat k.toNat v this]
  | unspecified => rfl

theorem RecvRegs.memWrite_wf (r : RecvRegs) (a : Nibble) (v : Byte) (h : r.wf = true) :
    (r.memWrite a v).wf = true := by
  cases r with
  | known m => exact cellsWrite_wf m a.toNat v a.isLt h
  | unspecified => rfl

/-- A commit edge keeps the canonical form, whatever samples are held. -/
theorem RecvRegs.commit_wf (r : RecvRegs) (samples : List Level) (h : r.wf = true) :
    (r.commit samples).wf = true := by
  unfold RecvRegs.commit
  split
  · exact h
  · split
    · split
      · exact RecvRegs.memWrite_wf r _ _ h
      · rfl
    · rfl

@[simp] theorem RecvRegs.commit_nil (r : RecvRegs) : r.commit [] = r := rfl

theorem Receiver.onClock_wf (r : Receiver) (edge : Seen) (dat : Level) (h : r.regs.wf = true) :
    (r.onClock edge dat).regs.wf = true := by
  cases edge with
  | yes => exact h
  | no => exact h
  | maybe => rfl

theorem Receiver.onLatch_wf (r : Receiver) (edge : Seen) (h : r.regs.wf = true) :
    (r.onLatch edge).regs.wf = true := by
  cases edge with
  | yes => exact RecvRegs.commit_wf r.regs r.samples h
  | no => exact h
  | maybe =>
    unfold Receiver.onLatch
    dsimp only
    split
    · exact h
    · rfl

@[simp] theorem Receiver.onClock_yes (r : Receiver) (dat : Level) :
    r.onClock .yes dat = { r with samples := r.samples ++ [dat] } := rfl

@[simp] theorem Receiver.onClock_no (r : Receiver) (dat : Level) : r.onClock .no dat = r := rfl

@[simp] theorem Receiver.onLatch_yes (r : Receiver) :
    r.onLatch .yes = { samples := [], regs := r.regs.commit r.samples } := rfl

@[simp] theorem Receiver.onLatch_no (r : Receiver) : r.onLatch .no = r := rfl

/-- A LATCH write that may be a commit edge does nothing when no sample is held. -/
theorem Receiver.onLatch_maybe_nil (r : Receiver) (h : r.samples = []) : r.onLatch .maybe = r := by
  simp [Receiver.onLatch, h]

/-! ### Edges and levels -/

@[simp] theorem rising_hi (l : Level) : rising .hi l = .no := by cases l <;> rfl
@[simp] theorem rising_to_lo (l : Level) : rising l .lo = .no := by cases l <;> rfl
@[simp] theorem rising_lo_hi : rising .lo .hi = .yes := rfl
@[simp] theorem falling_lo (l : Level) : falling .lo l = .no := by cases l <;> rfl
@[simp] theorem falling_to_hi (l : Level) : falling l .hi = .no := by cases l <;> rfl
@[simp] theorem falling_hi_lo : falling .hi .lo = .yes := rfl
@[simp] theorem levelOf_true : levelOf true = .hi := rfl
@[simp] theorem levelOf_false : levelOf false = .lo := rfl
theorem levelOf_ne_x (b : Bool) : levelOf b ≠ .x := by cases b <;> simp

@[simp] theorem knownBits_levelOf (bs : List Bool) : knownBits (bs.map levelOf) = some bs := by
  induction bs with
  | nil => rfl
  | cons b bs ih => cases b <;> simp [knownBits, ih]

/-! ### Observation of pieces of trace -/

@[simp] theorem Observation.events_nil (e : CommitEdge) (o : Observation) : o.events e [] = o := rfl

@[simp] theorem Observation.events_cons (e : CommitEdge) (o : Observation) (ev : Event) (es : List Event) :
    o.events e (ev :: es) = (Observation.event e o ev).events e es := rfl

theorem Observation.events_append (e : CommitEdge) (o : Observation) (es es' : List Event) :
    o.events e (es ++ es') = (o.events e es).events e es' := by
  simp [Observation.events, List.foldl_append]

theorem observe_append (e : CommitEdge) (es es' : List Event) :
    observe e (es ++ es') = (observe e es).events e es' := Observation.events_append e _ es es'

end Sys2Proof.Machine
end

