-- ==== Sys2Proof/Laws/State.lean ====
section
/-! SUPPORT. One lemma per field and update of the state, true by definition, so that no later proof unfolds one. -/

namespace Sys2Proof.Machine

open Sys2Proof

section
variable (s : State) (ev : Event) (a d : Byte) (p : Pin) (b : Bool)

/-! ### emit -/

@[simp] theorem emit_sr : (s.emit ev).sr = s.sr := rfl
@[simp] theorem emit_dreg : (s.emit ev).dreg = s.dreg := rfl
@[simp] theorem emit_cnt : (s.emit ev).cnt = s.cnt := rfl
@[simp] theorem emit_fld : (s.emit ev).fld = s.fld := rfl
@[simp] theorem emit_ph : (s.emit ev).ph = s.ph := rfl
@[simp] theorem emit_pinClk : (s.emit ev).pinClk = s.pinClk := rfl
@[simp] theorem emit_pinDat : (s.emit ev).pinDat = s.pinDat := rfl
@[simp] theorem emit_pinLat : (s.emit ev).pinLat = s.pinLat := rfl
@[simp] theorem emit_cmdValid : (s.emit ev).cmdValid = s.cmdValid := rfl
@[simp] theorem emit_cmdAddr : (s.emit ev).cmdAddr = s.cmdAddr := rfl
@[simp] theorem emit_cmdData : (s.emit ev).cmdData = s.cmdData := rfl
@[simp] theorem emit_trace : (s.emit ev).trace = s.trace ++ [ev] := rfl
@[simp] theorem emit_recvRise : (s.emit ev).recvRise = s.recvRise := rfl
@[simp] theorem emit_recvFall : (s.emit ev).recvFall = s.recvFall := rfl
@[simp] theorem emit_hostProgram : (s.emit ev).hostProgram = s.hostProgram := rfl
@[simp] theorem emit_hostWaiting : (s.emit ev).hostWaiting = s.hostWaiting := rfl
@[simp] theorem emit_pinsConfigured : (s.emit ev).pinsConfigured = s.pinsConfigured := rfl
@[simp] theorem emit_tLatchHold : (s.emit ev).tLatchHold = s.tLatchHold := rfl
@[simp] theorem emit_schedule : (s.emit ev).schedule = s.schedule := rfl

/-! ### holdLatch -/

@[simp] theorem holdLatch_sr : (s.holdLatch).sr = s.sr := rfl
@[simp] theorem holdLatch_dreg : (s.holdLatch).dreg = s.dreg := rfl
@[simp] theorem holdLatch_cnt : (s.holdLatch).cnt = s.cnt := rfl
@[simp] theorem holdLatch_fld : (s.holdLatch).fld = s.fld := rfl
@[simp] theorem holdLatch_ph : (s.holdLatch).ph = s.ph := rfl
@[simp] theorem holdLatch_pinClk : (s.holdLatch).pinClk = s.pinClk := rfl
@[simp] theorem holdLatch_pinDat : (s.holdLatch).pinDat = s.pinDat := rfl
@[simp] theorem holdLatch_pinLat : (s.holdLatch).pinLat = s.pinLat := rfl
@[simp] theorem holdLatch_cmdValid : (s.holdLatch).cmdValid = s.cmdValid := rfl
@[simp] theorem holdLatch_cmdAddr : (s.holdLatch).cmdAddr = s.cmdAddr := rfl
@[simp] theorem holdLatch_cmdData : (s.holdLatch).cmdData = s.cmdData := rfl
@[simp] theorem holdLatch_trace : (s.holdLatch).trace = s.trace ++ [.hold s.tLatchHold] := rfl
@[simp] theorem holdLatch_recvRise : (s.holdLatch).recvRise = s.recvRise := rfl
@[simp] theorem holdLatch_recvFall : (s.holdLatch).recvFall = s.recvFall := rfl
@[simp] theorem holdLatch_hostProgram : (s.holdLatch).hostProgram = s.hostProgram := rfl
@[simp] theorem holdLatch_hostWaiting : (s.holdLatch).hostWaiting = s.hostWaiting := rfl
@[simp] theorem holdLatch_pinsConfigured : (s.holdLatch).pinsConfigured = s.pinsConfigured := rfl
@[simp] theorem holdLatch_tLatchHold : (s.holdLatch).tLatchHold = s.tLatchHold := rfl
@[simp] theorem holdLatch_schedule : (s.holdLatch).schedule = s.schedule := rfl

/-! ### postCommand -/

@[simp] theorem postCommand_sr : (s.postCommand a d).sr = s.sr := rfl
@[simp] theorem postCommand_dreg : (s.postCommand a d).dreg = s.dreg := rfl
@[simp] theorem postCommand_cnt : (s.postCommand a d).cnt = s.cnt := rfl
@[simp] theorem postCommand_fld : (s.postCommand a d).fld = s.fld := rfl
@[simp] theorem postCommand_ph : (s.postCommand a d).ph = s.ph := rfl
@[simp] theorem postCommand_pinClk : (s.postCommand a d).pinClk = s.pinClk := rfl
@[simp] theorem postCommand_pinDat : (s.postCommand a d).pinDat = s.pinDat := rfl
@[simp] theorem postCommand_pinLat : (s.postCommand a d).pinLat = s.pinLat := rfl
@[simp] theorem postCommand_cmdValid : (s.postCommand a d).cmdValid = true := rfl
@[simp] theorem postCommand_cmdAddr : (s.postCommand a d).cmdAddr = .val a := rfl
@[simp] theorem postCommand_cmdData : (s.postCommand a d).cmdData = .val d := rfl
@[simp] theorem postCommand_trace : (s.postCommand a d).trace = s.trace := rfl
@[simp] theorem postCommand_recvRise : (s.postCommand a d).recvRise = s.recvRise := rfl
@[simp] theorem postCommand_recvFall : (s.postCommand a d).recvFall = s.recvFall := rfl
@[simp] theorem postCommand_hostProgram : (s.postCommand a d).hostProgram = s.hostProgram := rfl
@[simp] theorem postCommand_hostWaiting : (s.postCommand a d).hostWaiting = true := rfl
@[simp] theorem postCommand_pinsConfigured : (s.postCommand a d).pinsConfigured = s.pinsConfigured := rfl
@[simp] theorem postCommand_tLatchHold : (s.postCommand a d).tLatchHold = s.tLatchHold := rfl
@[simp] theorem postCommand_schedule : (s.postCommand a d).schedule = s.schedule := rfl

/-! ### returnCall -/

@[simp] theorem returnCall_sr : (s.returnCall).sr = s.sr := rfl
@[simp] theorem returnCall_dreg : (s.returnCall).dreg = s.dreg := rfl
@[simp] theorem returnCall_cnt : (s.returnCall).cnt = s.cnt := rfl
@[simp] theorem returnCall_fld : (s.returnCall).fld = s.fld := rfl
@[simp] theorem returnCall_ph : (s.returnCall).ph = s.ph := rfl
@[simp] theorem returnCall_pinClk : (s.returnCall).pinClk = s.pinClk := rfl
@[simp] theorem returnCall_pinDat : (s.returnCall).pinDat = s.pinDat := rfl
@[simp] theorem returnCall_pinLat : (s.returnCall).pinLat = s.pinLat := rfl
@[simp] theorem returnCall_cmdValid : (s.returnCall).cmdValid = s.cmdValid := rfl
@[simp] theorem returnCall_cmdAddr : (s.returnCall).cmdAddr = s.cmdAddr := rfl
@[simp] theorem returnCall_cmdData : (s.returnCall).cmdData = s.cmdData := rfl
@[simp] theorem returnCall_trace : (s.returnCall).trace = s.trace := rfl
@[simp] theorem returnCall_recvRise : (s.returnCall).recvRise = s.recvRise := rfl
@[simp] theorem returnCall_recvFall : (s.returnCall).recvFall = s.recvFall := rfl
@[simp] theorem returnCall_hostProgram : (s.returnCall).hostProgram = s.hostProgram.tail := rfl
@[simp] theorem returnCall_hostWaiting : (s.returnCall).hostWaiting = false := rfl
@[simp] theorem returnCall_pinsConfigured : (s.returnCall).pinsConfigured = s.pinsConfigured := rfl
@[simp] theorem returnCall_tLatchHold : (s.returnCall).tLatchHold = s.tLatchHold := rfl
@[simp] theorem returnCall_schedule : (s.returnCall).schedule = s.schedule := rfl

/-! ### configurePins -/

@[simp] theorem configurePins_sr : (s.configurePins).sr = s.sr := rfl
@[simp] theorem configurePins_dreg : (s.configurePins).dreg = s.dreg := rfl
@[simp] theorem configurePins_cnt : (s.configurePins).cnt = s.cnt := rfl
@[simp] theorem configurePins_fld : (s.configurePins).fld = s.fld := rfl
@[simp] theorem configurePins_ph : (s.configurePins).ph = s.ph := rfl
@[simp] theorem configurePins_pinClk : (s.configurePins).pinClk = s.pinClk := rfl
@[simp] theorem configurePins_pinDat : (s.configurePins).pinDat = s.pinDat := rfl
@[simp] theorem configurePins_pinLat : (s.configurePins).pinLat = s.pinLat := rfl
@[simp] theorem configurePins_cmdValid : (s.configurePins).cmdValid = s.cmdValid := rfl
@[simp] theorem configurePins_cmdAddr : (s.configurePins).cmdAddr = s.cmdAddr := rfl
@[simp] theorem configurePins_cmdData : (s.configurePins).cmdData = s.cmdData := rfl
@[simp] theorem configurePins_trace : (s.configurePins).trace = s.trace := rfl
@[simp] theorem configurePins_recvRise : (s.configurePins).recvRise = s.recvRise := rfl
@[simp] theorem configurePins_recvFall : (s.configurePins).recvFall = s.recvFall := rfl
@[simp] theorem configurePins_hostProgram : (s.configurePins).hostProgram = s.hostProgram := rfl
@[simp] theorem configurePins_hostWaiting : (s.configurePins).hostWaiting = s.hostWaiting := rfl
@[simp] theorem configurePins_pinsConfigured : (s.configurePins).pinsConfigured = true := rfl
@[simp] theorem configurePins_tLatchHold : (s.configurePins).tLatchHold = s.tLatchHold := rfl
@[simp] theorem configurePins_schedule : (s.configurePins).schedule = s.schedule := rfl

/-! ### turnTaken -/

@[simp] theorem turnTaken_sr : (s.turnTaken).sr = s.sr := rfl
@[simp] theorem turnTaken_dreg : (s.turnTaken).dreg = s.dreg := rfl
@[simp] theorem turnTaken_cnt : (s.turnTaken).cnt = s.cnt := rfl
@[simp] theorem turnTaken_fld : (s.turnTaken).fld = s.fld := rfl
@[simp] theorem turnTaken_ph : (s.turnTaken).ph = s.ph := rfl
@[simp] theorem turnTaken_pinClk : (s.turnTaken).pinClk = s.pinClk := rfl
@[simp] theorem turnTaken_pinDat : (s.turnTaken).pinDat = s.pinDat := rfl
@[simp] theorem turnTaken_pinLat : (s.turnTaken).pinLat = s.pinLat := rfl
@[simp] theorem turnTaken_cmdValid : (s.turnTaken).cmdValid = s.cmdValid := rfl
@[simp] theorem turnTaken_cmdAddr : (s.turnTaken).cmdAddr = s.cmdAddr := rfl
@[simp] theorem turnTaken_cmdData : (s.turnTaken).cmdData = s.cmdData := rfl
@[simp] theorem turnTaken_trace : (s.turnTaken).trace = s.trace := rfl
@[simp] theorem turnTaken_recvRise : (s.turnTaken).recvRise = s.recvRise := rfl
@[simp] theorem turnTaken_recvFall : (s.turnTaken).recvFall = s.recvFall := rfl
@[simp] theorem turnTaken_hostProgram : (s.turnTaken).hostProgram = s.hostProgram := rfl
@[simp] theorem turnTaken_hostWaiting : (s.turnTaken).hostWaiting = s.hostWaiting := rfl
@[simp] theorem turnTaken_pinsConfigured : (s.turnTaken).pinsConfigured = s.pinsConfigured := rfl
@[simp] theorem turnTaken_tLatchHold : (s.turnTaken).tLatchHold = s.tLatchHold := rfl
@[simp] theorem turnTaken_schedule : (s.turnTaken).schedule = s.schedule.tail := rfl

/-! ### resetAction -/

@[simp] theorem resetAction_sr : (s.resetAction).sr = .undef := rfl
@[simp] theorem resetAction_dreg : (s.resetAction).dreg = .undef := rfl
@[simp] theorem resetAction_cnt : (s.resetAction).cnt = .undef := rfl
@[simp] theorem resetAction_fld : (s.resetAction).fld = .undef := rfl
@[simp] theorem resetAction_ph : (s.resetAction).ph = Phase.idle := rfl
@[simp] theorem resetAction_pinClk : (s.resetAction).pinClk = .x := rfl
@[simp] theorem resetAction_pinDat : (s.resetAction).pinDat = .x := rfl
@[simp] theorem resetAction_pinLat : (s.resetAction).pinLat = .x := rfl
@[simp] theorem resetAction_cmdValid : (s.resetAction).cmdValid = false := rfl
@[simp] theorem resetAction_cmdAddr : (s.resetAction).cmdAddr = .undef := rfl
@[simp] theorem resetAction_cmdData : (s.resetAction).cmdData = .undef := rfl
@[simp] theorem resetAction_trace : (s.resetAction).trace = s.trace ++ [.reset] := rfl
@[simp] theorem resetAction_recvRise : (s.resetAction).recvRise = s.recvRise := rfl
@[simp] theorem resetAction_recvFall : (s.resetAction).recvFall = s.recvFall := rfl
@[simp] theorem resetAction_hostProgram : (s.resetAction).hostProgram = if s.hostWaiting then s.hostProgram.tail else s.hostProgram := rfl
@[simp] theorem resetAction_hostWaiting : (s.resetAction).hostWaiting = false := rfl
@[simp] theorem resetAction_pinsConfigured : (s.resetAction).pinsConfigured = false := rfl
@[simp] theorem resetAction_tLatchHold : (s.resetAction).tLatchHold = s.tLatchHold := rfl
@[simp] theorem resetAction_schedule : (s.resetAction).schedule = s.schedule := rfl

/-! ### pinWrite -/

@[simp] theorem pinWrite_clock_pinClk : (s.pinWrite .clock b).pinClk = s.drivenLevel b := rfl
@[simp] theorem pinWrite_clock_pinDat : (s.pinWrite .clock b).pinDat = s.pinDat := rfl
@[simp] theorem pinWrite_clock_pinLat : (s.pinWrite .clock b).pinLat = s.pinLat := rfl
@[simp] theorem pinWrite_data_pinClk : (s.pinWrite .data b).pinClk = s.pinClk := rfl
@[simp] theorem pinWrite_data_pinDat : (s.pinWrite .data b).pinDat = s.drivenLevel b := rfl
@[simp] theorem pinWrite_data_pinLat : (s.pinWrite .data b).pinLat = s.pinLat := rfl
@[simp] theorem pinWrite_latch_pinClk : (s.pinWrite .latch b).pinClk = s.pinClk := rfl
@[simp] theorem pinWrite_latch_pinDat : (s.pinWrite .latch b).pinDat = s.pinDat := rfl
@[simp] theorem pinWrite_latch_pinLat : (s.pinWrite .latch b).pinLat = s.drivenLevel b := rfl
@[simp] theorem pinWrite_sr : (s.pinWrite p b).sr = s.sr := rfl
@[simp] theorem pinWrite_dreg : (s.pinWrite p b).dreg = s.dreg := rfl
@[simp] theorem pinWrite_cnt : (s.pinWrite p b).cnt = s.cnt := rfl
@[simp] theorem pinWrite_fld : (s.pinWrite p b).fld = s.fld := rfl
@[simp] theorem pinWrite_ph : (s.pinWrite p b).ph = s.ph := rfl
@[simp] theorem pinWrite_cmdValid : (s.pinWrite p b).cmdValid = s.cmdValid := rfl
@[simp] theorem pinWrite_cmdAddr : (s.pinWrite p b).cmdAddr = s.cmdAddr := rfl
@[simp] theorem pinWrite_cmdData : (s.pinWrite p b).cmdData = s.cmdData := rfl
@[simp] theorem pinWrite_trace : (s.pinWrite p b).trace = s.trace ++ [.write p b] := rfl
@[simp] theorem pinWrite_data_recvRise : (s.pinWrite .data b).recvRise = s.recvRise := rfl
@[simp] theorem pinWrite_clock_recvRise :
    (s.pinWrite .clock b).recvRise = s.recvRise.onClock (rising s.pinClk (s.drivenLevel b)) s.pinDat := rfl
@[simp] theorem pinWrite_latch_recvRise :
    (s.pinWrite .latch b).recvRise = s.recvRise.onLatch (rising s.pinLat (s.drivenLevel b)) := rfl
@[simp] theorem pinWrite_data_recvFall : (s.pinWrite .data b).recvFall = s.recvFall := rfl
@[simp] theorem pinWrite_clock_recvFall :
    (s.pinWrite .clock b).recvFall = s.recvFall.onClock (rising s.pinClk (s.drivenLevel b)) s.pinDat := rfl
@[simp] theorem pinWrite_latch_recvFall :
    (s.pinWrite .latch b).recvFall = s.recvFall.onLatch (falling s.pinLat (s.drivenLevel b)) := rfl
@[simp] theorem pinWrite_hostProgram : (s.pinWrite p b).hostProgram = s.hostProgram := rfl
@[simp] theorem pinWrite_hostWaiting : (s.pinWrite p b).hostWaiting = s.hostWaiting := rfl
@[simp] theorem pinWrite_pinsConfigured : (s.pinWrite p b).pinsConfigured = s.pinsConfigured := rfl
@[simp] theorem pinWrite_tLatchHold : (s.pinWrite p b).tLatchHold = s.tLatchHold := rfl
@[simp] theorem pinWrite_schedule : (s.pinWrite p b).schedule = s.schedule := rfl

/-! ### The observed view -/

@[simp] theorem observed_clk (e : CommitEdge) : (s.observed e).clk = s.pinClk := rfl
@[simp] theorem observed_dat (e : CommitEdge) : (s.observed e).dat = s.pinDat := rfl
@[simp] theorem observed_lat (e : CommitEdge) : (s.observed e).lat = s.pinLat := rfl
@[simp] theorem observed_recv (e : CommitEdge) : (s.observed e).recv = s.receiver e := rfl
@[simp] theorem receiver_rise : s.receiver .rise = s.recvRise := rfl
@[simp] theorem receiver_fall : s.receiver .fall = s.recvFall := rfl

end

end Sys2Proof.Machine
end

