-- ==== Sys2Proof/Laws/Exec.lean ====
section
/-! SUPPORT. What each shared operation and each meaning can do, said once: the form of its next state, and when it faults.
Later proofs cite these and unfold none of the meanings. -/

namespace Sys2Proof.Machine

open Sys2Proof

/-! ### Shared operations -/

@[simp] theorem readReg_val {α : Type} (a : α) (k : α → Result) : readReg (.val a) k = k a := rfl
@[simp] theorem readReg_undef {α : Type} (k : α → Result) : readReg (.undef : Reg α) k = .fault .readUndefined := rfl

/-- A read that goes on to a next state found a value. -/
theorem readReg_next {α : Type} {r : Reg α} {k : α → Result} {t : State} (h : readReg r k = .next t) :
    ∃ a, r = .val a ∧ k a = .next t := by
  cases r with
  | undef => cases h
  | val a => exact ⟨a, rfl, h⟩

theorem drivenLevel_configured {s : State} (h : s.pinsConfigured = true) (b : Bool) : s.drivenLevel b = levelOf b := by
  simp [State.drivenLevel, h]

theorem drivenLevel_unconfigured {s : State} (h : s.pinsConfigured = false) (b : Bool) : s.drivenLevel b = .x := by
  simp [State.drivenLevel, h]

theorem slotFree_iff (s : State) : s.slotFree = true ↔ s.cmdValid = false ∧ s.ph = Phase.idle := by
  simp [State.slotFree, State.busy]

/-- On output pins a pin write is, to the observer, the event `Write(p, b)` (R46). -/
theorem pinWrite_observed (s : State) (p : Pin) (b : Bool) (e : CommitEdge) (h : s.pinsConfigured = true) :
    (s.pinWrite p b).observed e = Observation.event e (s.observed e) (.write p b) := by
  cases p <;> cases e <;>
    simp [State.observed, State.receiver, Observation.event, Observation.drive, drivenLevel_configured h,
      CommitEdge.seenIn]

theorem pinWrite_memWf (s : State) (p : Pin) (b : Bool)
    (hr : s.recvRise.regs.wf = true) (hf : s.recvFall.regs.wf = true) :
    (s.pinWrite p b).recvRise.regs.wf = true ∧ (s.pinWrite p b).recvFall.regs.wf = true := by
  cases p with
  | clock => exact ⟨Receiver.onClock_wf _ _ _ hr, Receiver.onClock_wf _ _ _ hf⟩
  | data => exact ⟨hr, hf⟩
  | latch => exact ⟨Receiver.onLatch_wf _ _ hr, Receiver.onLatch_wf _ _ hf⟩

/-! ### Inversion: what a meaning that answers a next state did -/

theorem execSend_cases {a d : Byte} {s t : State} (h : execSend a d s = .next t) :
    (s.slotFree = true ∧ s.hostWaiting = false ∧ t = s.postCommand a d) ∨
    (s.slotFree = true ∧ s.hostWaiting = true ∧ t = s.returnCall) ∨
    (s.slotFree = false ∧ t = s) := by
  unfold execSend at h
  split at h
  · rename_i hf
    split at h
    · rename_i hw
      cases h
      exact .inr (.inl ⟨hf, hw, rfl⟩)
    · rename_i hw
      cases h
      exact .inl ⟨hf, by simpa using hw, rfl⟩
  · rename_i hf
    cases h
    exact .inr (.inr ⟨by simpa using hf, rfl⟩)

theorem execAccept_cases {s t : State} (h : execAccept s = .next t) :
    ∃ a d, s.cmdAddr = .val a ∧ s.cmdData = .val d ∧
      t = { s.emit (.accept a d) with
        sr := .val a, dreg := .val d, cnt := .val 4, fld := .val .addr, cmdValid := false, ph := Phase.latLoStart } := by
  obtain ⟨a, ha, h⟩ := readReg_next h
  obtain ⟨d, hd, h⟩ := readReg_next h
  cases h
  exact ⟨a, d, ha, hd, rfl⟩

theorem execDatSet_cases {s t : State} (h : execDatSet s = .next t) :
    ∃ v, s.sr = .val v ∧ t = { s.pinWrite .data (currentLsb v) with ph := Phase.shift } := by
  obtain ⟨v, hv, h⟩ := readReg_next h
  cases h
  exact ⟨v, hv, rfl⟩

theorem execShift_cases {s t : State} (h : execShift s = .next t) :
    ∃ v, s.sr = .val v ∧ t = { s with sr := .val (shiftRightOne v), ph := Phase.clkHi } := by
  obtain ⟨v, hv, h⟩ := readReg_next h
  cases h
  exact ⟨v, hv, rfl⟩

/-- CLK_HI goes on within a field, switches the field, or ends the frame (R86). -/
theorem execClkHi_cases {s t : State} (h : execClkHi s = .next t) :
    (∃ n f, s.cnt = .val n ∧ s.fld = .val f ∧ countInRange f n = true ∧ 2 ≤ n.toNat ∧
      t = { s.pinWrite .clock true with cnt := .val (n - 1), ph := Phase.clkLo }) ∨
    (∃ n d, s.cnt = .val n ∧ s.fld = .val .addr ∧ n.toNat = 1 ∧ s.dreg = .val d ∧
      t = { s.pinWrite .clock true with sr := .val d, cnt := .val 8, fld := .val .data, ph := Phase.clkLo }) ∨
    (∃ n, s.cnt = .val n ∧ s.fld = .val .data ∧ n.toNat = 1 ∧
      t = { s.pinWrite .clock true with cnt := .val 0, ph := Phase.latHi }) := by
  obtain ⟨n, hn, h⟩ := readReg_next h
  obtain ⟨f, hf, h⟩ := readReg_next h
  split at h
  · rename_i hr
    split at h
    · rename_i h2
      cases h
      exact .inl ⟨n, f, hn, hf, hr, h2, rfl⟩
    · rename_i h2
      cases f with
      | addr =>
        obtain ⟨d, hd, h⟩ := readReg_next h
        cases h
        simp only [countInRange, decide_eq_true_eq] at hr
        exact .inr (.inl ⟨n, d, hn, hf, by omega, hd, rfl⟩)
      | data =>
        cases h
        simp only [countInRange, decide_eq_true_eq] at hr
        exact .inr (.inr ⟨n, hn, hf, by omega, rfl⟩)
  · cases h

/-- CLK_HI's range fault is raised exactly outside the range (R86, R98). -/
theorem execClkHi_outOfRange (s : State) :
    execClkHi s = .fault .counterOutOfRange ↔ ∃ n f, s.cnt = .val n ∧ s.fld = .val f ∧ countInRange f n = false := by
  cases hc : s.cnt with
  | undef => simp [execClkHi, hc]
  | val n =>
    cases hf : s.fld with
    | undef => simp [execClkHi, hc, hf]
    | val f =>
      cases hr : countInRange f n with
      | false => simp [execClkHi, hc, hf, hr]
      | true =>
        simp only [execClkHi, hc, hf, readReg_val, hr, if_true]
        by_cases h2 : 2 ≤ n.toNat
        · simp [h2, hr]
        · cases f with
          | addr => cases hd : s.dreg <;> simp [h2, hr]
          | data => simp [h2, hr]

/-! ### The sequencer -/

/-- The meaning that a sequencer step with `rst = 0` runs, if it answers a next state (R79). -/
theorem sequencerStep_next {s t : State} (h : sequencerStep false s = .next t) :
    ∃ i, s.nextMicroOp = .ok i ∧ exec i s = .next t := by
  unfold sequencerStep at h
  simp only [Bool.false_eq_true, if_false] at h
  split at h
  · rename_i i hi
    exact ⟨i, hi, h⟩
  · cases h

/-- On a reserved phase code the step faults (R64). -/
theorem sequencerStep_reserved {s : State} (h : phaseReserved s.ph = true) :
    sequencerStep false s = .fault .reservedPhase := by
  simp [sequencerStep, State.nextMicroOp, decode, State.selector, decodeSelector_reserved _ _ h]

/-! ### The host -/

/-- What a move of the host can do: set the pin directions, write the slot, return from a call, or nothing. -/
theorem hostStep_cases (s : State) :
    (s.pinsConfigured = false ∧ hostStep s = .next s.configurePins) ∨
    (∃ c rest, s.pinsConfigured = true ∧ s.hostProgram = c :: rest ∧ s.slotFree = true ∧ s.hostWaiting = false ∧
      hostStep s = .next (s.postCommand c.addr c.data)) ∨
    (∃ c rest, s.pinsConfigured = true ∧ s.hostProgram = c :: rest ∧ s.slotFree = true ∧ s.hostWaiting = true ∧
      hostStep s = .next s.returnCall) ∨
    (s.pinsConfigured = true ∧ (s.hostProgram = [] ∨ s.slotFree = false) ∧ hostStep s = .next s) := by
  cases hp : s.pinsConfigured with
  | false => simp [hostStep, hp]
  | true =>
    cases hc : s.hostProgram with
    | nil => simp [hostStep, hp, State.nextCommand, hc]
    | cons c rest =>
      cases hf : s.slotFree <;> cases hw : s.hostWaiting <;>
        simp [hostStep, hp, State.nextCommand, hc, Command.instr, exec, execSend, hf, hw]

end Sys2Proof.Machine
end

