-- ==== Sys2Proof/Laws/Frame.lean ====
section
/-! SUPPORT. Bit by bit: the command word, the frame word and the frame. -/

namespace Sys2Proof

/-- The bits of CMD16 (R55): the address argument below, the data argument above. -/
theorem encodeCommand_getLsbD (a d : Byte) (i : Nat) :
    (encodeCommand a d).getLsbD i = if i < 8 then a.getLsbD i else d.getLsbD (i - 8) := by
  exact BitVec.getLsbD_append (x := d) (y := a) (i := i)

/-- The bits of the frame word are the frame's (R36). -/
theorem frameWord_getLsbD (a d : Byte) (i : Nat) : (frameWord a d).getLsbD i = frameBit a d i := by
  refine Eq.trans (BitVec.getLsbD_append (x := d) (y := txAddr a) (i := i)) ?_
  rw [frameBit]
  by_cases h4 : i < 4
  · simp [h4, show i ≤ 3 by omega, txAddr]
  · simp [h4, show ¬i ≤ 3 by omega]

/-- The frame as a list of twelve bits (R36, R58). -/
theorem frame_eq (a d : Byte) :
    frame a d = [a.getLsbD 0, a.getLsbD 1, a.getLsbD 2, a.getLsbD 3, d.getLsbD 0, d.getLsbD 1, d.getLsbD 2,
      d.getLsbD 3, d.getLsbD 4, d.getLsbD 5, d.getLsbD 6, d.getLsbD 7] := by
  simp [frame, frameBit, Config.frameLen, Config.addrW, Config.dataW, show List.range 12 = [0, 1, 2, 3, 4, 5, 6, 7, 8, 9, 10, 11] by decide]

/-- The bits of the number that a list of bits makes. -/
theorem bitsToNat_testBit (bits : List Bool) (i : Nat) : (bitsToNat bits).testBit i = (bits[i]?).getD false := by
  induction bits generalizing i with
  | nil => simp [bitsToNat]
  | cons b rest ih =>
    cases i with
    | zero => cases b <;> simp [bitsToNat, Nat.testBit_zero, Nat.add_mod]
    | succ i =>
      have h : bitsToNat (b :: rest) / 2 = bitsToNat rest := by cases b <;> (simp [bitsToNat]; try omega)
      simp [Nat.testBit_succ, h, ih]

/-- The bits of the frame word that received bits make (R40). -/
theorem frameWordOf_getLsbD (bits : List Bool) (i : Nat) (h : i < 12) :
    (frameWordOf bits).getLsbD i = (bits[i]?).getD false := by
  rw [frameWordOf, BitVec.getLsbD_ofNat, bitsToNat_testBit]
  simp [h]

end Sys2Proof
end

