-- ==== Sys2Proof/Laws/PerInstr.lean ====
section
/-! SUPPORT. Statements for every instruction, one lemma a constructor. -/

namespace Sys2Proof.Laws.Encoding

open Sys2Proof

/-- The number of a code word, and the match and mask of the instruction's opcode-table row (R63, R65). -/
def codeNumber : CodeWord → Nat
  | .cmd16 w => w.toNat
  | .usel5 w => w.toNat

/-- The mask of the instruction's row. -/
def rowMask : Instr → Nat
  | .send _ _ => 0x0000
  | .idle => 0x1F
  | .accept => 0x1F
  | .latLoStart => 0x0F
  | .clkLo => 0x0F
  | .datSet => 0x0F
  | .shift => 0x0F
  | .clkHi => 0x0F
  | .latHi => 0x0F
  | .latHold => 0x0F
  | .latLoEnd => 0x0F

/-- The match of the instruction's row. -/
def rowMatch : Instr → Nat
  | .send _ _ => 0x0000
  | .idle => 0x00
  | .accept => 0x10
  | .latLoStart => 0x01
  | .clkLo => 0x02
  | .datSet => 0x03
  | .shift => 0x04
  | .clkHi => 0x05
  | .latHi => 0x06
  | .latHold => 0x07
  | .latLoEnd => 0x08

/-- Every code word of the instruction matches its row of the opcode table under the row's mask. -/
def Statement (i : Instr) : Prop := ∀ v, codeNumber (encode v i) &&& rowMask i = rowMatch i

theorem send (a d : Byte) : Statement (.send a d) := by intro v; simp [rowMask, rowMatch]
theorem idle : Statement .idle := by unfold Statement; decide
theorem accept : Statement .accept := by unfold Statement; decide
theorem latLoStart : Statement .latLoStart := by unfold Statement; decide
theorem clkLo : Statement .clkLo := by unfold Statement; decide
theorem datSet : Statement .datSet := by unfold Statement; decide
theorem shift : Statement .shift := by unfold Statement; decide
theorem clkHi : Statement .clkHi := by unfold Statement; decide
theorem latHi : Statement .latHi := by unfold Statement; decide
theorem latHold : Statement .latHold := by unfold Statement; decide
theorem latLoEnd : Statement .latLoEnd := by unfold Statement; decide

end Sys2Proof.Laws.Encoding
end

