-- ==== Sys2Proof/Laws/Run.lean ====
section
/-! SUPPORT. Runs: steps and turns one after another, and the induction over what is reachable, once. -/

namespace Sys2Proof.Machine

open Sys2Proof

@[simp] theorem runTurns_nil (s : State) : runTurns [] s = .next s := rfl

theorem runTurns_cons_next {t : Turn} {ts : List Turn} {s u : State} (h : runTurn t s = .next u) :
    runTurns (t :: ts) s = runTurns ts u := by
  simp [runTurns, h]

theorem runTurns_append_next {ts ts' : List Turn} {s u : State} (h : runTurns ts s = .next u) :
    runTurns (ts ++ ts') s = runTurns ts' u := by
  induction ts generalizing s with
  | nil => cases h; rfl
  | cons t ts ih =>
    simp only [List.cons_append, runTurns] at h ⊢
    split at h
    · exact ih h
    · cases h
    · cases h

@[simp] theorem runSequencer_zero (s : State) : runSequencer 0 s = .next s := rfl

theorem runSequencer_succ {k : Nat} {s u : State} (h : sequencerStep false s = .next u) :
    runSequencer (k + 1) s = runSequencer k u := by
  simp only [runSequencer, List.replicate_succ]
  exact runTurns_cons_next h

theorem runSequencer_add {j k : Nat} {s u : State} (h : runSequencer j s = .next u) :
    runSequencer (j + k) s = runSequencer k u := by
  simp only [runSequencer, List.replicate_add]
  exact runTurns_append_next h

@[simp] theorem runSteps_zero (s : State) : runSteps 0 s = .next s := rfl

theorem runSteps_succ_next {k : Nat} {s u : State} (h : step s = .next u) : runSteps (k + 1) s = runSteps k u := by
  simp [runSteps, Host.Core.run, core, h]

theorem runSteps_succ_fault {k : Nat} {s : State} {f : Fault} (h : step s = .fault f) :
    runSteps (k + 1) s = .fault f := by
  simp [runSteps, Host.Core.run, core, h]

/-- What a run of one more step that answers a next state did first. -/
theorem runSteps_succ_cases {k : Nat} {s t : State} (h : runSteps (k + 1) s = .next t) :
    ∃ u, step s = .next u ∧ runSteps k u = .next t := by
  cases hs : step s with
  | next u => exact ⟨u, rfl, by rw [← runSteps_succ_next hs]; exact h⟩
  | fault f => rw [runSteps_succ_fault hs] at h; cases h
  | refused r => simp [runSteps, Host.Core.run, core, hs] at h

/-- A property that a step keeps holds after any number of steps. -/
theorem runSteps_keeps {P : State → Prop} (keep : ∀ s t, P s → step s = .next t → P t) :
    ∀ (k : Nat) (s t : State), P s → runSteps k s = .next t → P t
  | 0, s, t, hs, h => by cases h; exact hs
  | k + 1, s, t, hs, h => by
    obtain ⟨u, hu, h⟩ := runSteps_succ_cases h
    exact runSteps_keeps keep k u t (keep s u hs hu) h

/-- The induction over reachable states: what holds at every launch and is kept by every step holds of every one. -/
theorem reachable_of_keeps {P : State → Prop}
    (start : ∀ program turns t, Config.tLatchHoldMin ≤ t → P (State.launch program turns t))
    (keep : ∀ s t, P s → step s = .next t → P t) : ∀ s, Reachable s → P s := by
  rintro s ⟨program, turns, t, k, ht, h⟩
  exact runSteps_keeps keep k _ s (start program turns t ht) h

/-- A step is the turn that is due, taken by the state without it. -/
theorem step_eq (s : State) : step s = runTurn s.nextTurn s.turnTaken := rfl

@[simp] theorem runTurn_host (s : State) : runTurn .host s = hostStep s := rfl
@[simp] theorem runTurn_sequencer (rst : Bool) (s : State) : runTurn (.sequencer rst) s = sequencerStep rst s := rfl

end Sys2Proof.Machine
end

