-- ==== Sys2Proof/Tests/Slice0.lean ====
section
/-! SUPPORT. Tests. Expected results are the spec's: the words from 30_encoding.md R55 and R63, and the vectors of
95_test_vectors.md, each named in the docstring. The witnesses at the end show, for every statement with hypotheses, a state
and operands that meet all of them. -/

namespace Sys2Proof.Tests

open Sys2Proof Sys2Proof.Machine

/-! ### Helpers -/

/-- The run answered a next state of which `p` holds. -/
def nextSat (r : Result) (p : State → Bool) : Bool :=
  match r with
  | .next t => p t
  | .fault _ => false
  | .refused _ => false

/-- The run ended in the fault `f`. -/
def faultsWith (r : Result) (f : Fault) : Bool :=
  match r with
  | .next _ => false
  | .fault g => decide (g = f)
  | .refused _ => false

/-- After power-on and pin setup, with a latch hold of 1 us: pins `X`, trace `[Reset]`. -/
def booted : State := { State.reset with pinsConfigured := true, tLatchHold := 1000 }

/-- `booted` with the phase and pins given. -/
def atPhase (ph : Nibble) (clk dat lat : Level) : State :=
  { booted with ph := ph, pinClk := clk, pinDat := dat, pinLat := lat }

/-- The command of the vectors V-ACC-1, waiting in the slot. -/
def posted : State := { booted with cmdValid := true, cmdAddr := .val 0xE2, cmdData := .val 0xA3, hostWaiting := true }

/-- In a bit cell at CLK_HI with the given count, field and pending data. -/
def atClkHi (n : Reg Nibble) (f : Reg Field) (d : Reg Byte) : State :=
  { atPhase Phase.clkHi .lo .hi .lo with sr := .val 0, cnt := n, fld := f, dreg := d }

/-- A host about to begin `SEND 0x05, 0xA3`. -/
def ready : State := { booted with hostProgram := [{ addr := 0x05, data := 0xA3 }] }

/-- The twelve samples of `SEND 0x05, 0xA3` (V-SEND-3). -/
def twelve : List Bool := [true, false, true, false, true, true, false, false, false, true, false, true]

/-! ### WellFormed: ill-formed terms refused -/

/-- V-ENC-12, an address literal above 255. -/
theorem test_wf_refuses_addr_256 : (SendStmt.wf { addr := 256, data := 0 }) = false := by decide
/-- V-ENC-12, a data literal above 255. -/
theorem test_wf_refuses_data_256 : (SendStmt.wf { addr := 0, data := 0x100 }) = false := by decide
/-- An ill-formed line gives no command (R68). -/
theorem test_wf_no_command : (SendStmt.command { addr := 256, data := 0 }) = none := by decide
/-- V-ENC-11. -/
theorem test_wf_accepts_16 : (SendStmt.command { addr := 16, data := 1 }) = some { addr := 0x10, data := 0x01 } := by decide
/-- R69: no host program names a micro-operation. -/
theorem test_wf_micro_op_not_programmable : Instr.programmable .clkLo = false ∧
    programOf [.send 1 2, .clkLo] = none := by decide
/-- R68: a list of SENDs is a host program. -/
theorem test_wf_sends_are_a_program :
    programOf [.send 1 2, .send 3 4] = some [{ addr := 1, data := 2 }, { addr := 3, data := 4 }] := by decide

/-! ### Decode: every constructor, by a word written out from R55 and R63 -/

/-- V-ENC-1: `D = 1010 0011`, `x = 0000`, `A = 0101`. -/
theorem test_decode_send : decode (.cmd16 0b1010001100000101#16) = .ok (.send 0x05 0xA3) := by decide
/-- V-ENC-2: `D = 0011 1100`, `x = 1110`, `A = 0010`; the whole argument is kept. -/
theorem test_decode_send_upper_nibble : decode (.cmd16 0b0011110011100010#16) = .ok (.send 0xE2 0x3C) := by decide
/-- V-ENC-5. -/
theorem test_decode_idle : decode (.usel5 0b00000#5) = .ok .idle := by decide
/-- V-ENC-6. -/
theorem test_decode_accept : decode (.usel5 0b10000#5) = .ok .accept := by decide
theorem test_decode_latLoStart : decode (.usel5 0b00001#5) = .ok .latLoStart ∧
    decode (.usel5 0b10001#5) = .ok .latLoStart := by decide
theorem test_decode_clkLo : decode (.usel5 0b00010#5) = .ok .clkLo ∧ decode (.usel5 0b10010#5) = .ok .clkLo := by decide
theorem test_decode_datSet : decode (.usel5 0b00011#5) = .ok .datSet ∧ decode (.usel5 0b10011#5) = .ok .datSet := by decide
theorem test_decode_shift : decode (.usel5 0b00100#5) = .ok .shift ∧ decode (.usel5 0b10100#5) = .ok .shift := by decide
/-- V-ENC-7. -/
theorem test_decode_clkHi : decode (.usel5 0b00101#5) = .ok .clkHi ∧ decode (.usel5 0b10101#5) = .ok .clkHi := by decide
theorem test_decode_latHi : decode (.usel5 0b00110#5) = .ok .latHi ∧ decode (.usel5 0b10110#5) = .ok .latHi := by decide
theorem test_decode_latHold : decode (.usel5 0b00111#5) = .ok .latHold ∧ decode (.usel5 0b10111#5) = .ok .latHold := by decide
/-- V-ENC-8. -/
theorem test_decode_latLoEnd : decode (.usel5 0b01000#5) = .ok .latLoEnd ∧
    decode (.usel5 0b11000#5) = .ok .latLoEnd := by decide
/-- V-ENC-9. -/
theorem test_decode_reserved : decode (.usel5 0b01001#5) = .error (.reservedPhase 9) ∧
    decode (.usel5 0b11111#5) = .error (.reservedPhase 15) := by decide
/-- V-ENC-1 and R63, encoded. -/
theorem test_encode : encode false (.send 0x05 0xA3) = .cmd16 0xA305 ∧ encode true .accept = .usel5 0b10000 ∧
    encode true .clkHi = .usel5 0b10101 ∧ encode false .clkHi = .usel5 0b00101 := by decide
/-- The table's numbering: a SEND word, and selectors in one byte. -/
theorem test_table_word : decodeTableWord 16 0xA305 = some (.send 0x05 0xA3) ∧ decodeTableWord 8 0x10 = some .accept ∧
    decodeTableWord 8 0x08 = some .latLoEnd ∧ decodeTableWord 8 0x09 = none ∧ decodeTableWord 8 0x20 = none := by decide
/-- V-SEND-3 and V-SEND-6: the frame, and the frame word. -/
theorem test_frame : frame 0x05 0xA3 = twelve ∧ frameWord 0x05 0xA3 = 0xA35 ∧ frameWord 0xE2 0x3C = 0x3C2 := by decide

/-! ### The operations, one step each -/

/-- V-IDLE-1. -/
theorem test_idle_keeps_everything : nextSat (exec .idle booted) (fun t => decide (t.pinClk = .x ∧ t.ph = Phase.idle ∧
    t.trace = [.reset])) = true := by decide
/-- V-ACC-1. -/
theorem test_accept : nextSat (exec .accept posted) (fun t => decide (t.sr = .val 0xE2 ∧ t.dreg = .val 0xA3 ∧
    t.cnt = .val 4 ∧ t.fld = .val .addr ∧ t.cmdValid = false ∧ t.ph = 0b0001#4 ∧ t.pinLat = .x ∧
    t.trace = [.reset, .accept 0xE2 0xA3])) = true := by decide
/-- R98: a waiting command without an argument. -/
theorem test_accept_reads_undefined :
    faultsWith (exec .accept { booted with cmdValid := true }) .readUndefined = true := by decide
/-- V-LLS-1. -/
theorem test_latLoStart : nextSat (exec .latLoStart (atPhase Phase.latLoStart .x .x .x)) (fun t =>
    decide (t.pinLat = .lo ∧ t.pinClk = .x ∧ t.ph = 0b0010#4 ∧ t.trace = [.reset, .write .latch false])) = true := by decide
/-- R113, third row with `FALL`: a write from `X` with 12 samples held leaves `RecvReg` unspecified, with `RISE` it does not
yet. -/
theorem test_latLoStart_from_x_with_samples :
    nextSat (exec .latLoStart { atPhase Phase.latLoStart .x .x .x with
      recvRise := { samples := twelve.map levelOf, regs := .known [] },
      recvFall := { samples := twelve.map levelOf, regs := .known [] } })
      (fun t => decide (t.recvFall.regs = .unspecified ∧ t.recvRise.samples.length = 12)) = true := by decide
/-- V-CLO-1. -/
theorem test_clkLo : nextSat (exec .clkLo (atPhase Phase.clkLo .hi .hi .lo)) (fun t =>
    decide (t.pinClk = .lo ∧ t.pinDat = .hi ∧ t.ph = 0b0011#4 ∧ t.trace = [.reset, .write .clock false])) = true := by decide
/-- V-DS-1. -/
theorem test_datSet_one : nextSat (exec .datSet { atPhase Phase.datSet .lo .lo .lo with sr := .val 0xA3 }) (fun t =>
    decide (t.pinDat = .hi ∧ t.sr = .val 0xA3 ∧ t.ph = 0b0100#4 ∧ t.trace = [.reset, .write .data true])) = true := by decide
/-- V-DS-3. -/
theorem test_datSet_zero : nextSat (exec .datSet { atPhase Phase.datSet .lo .hi .lo with sr := .val 0xFE }) (fun t =>
    decide (t.pinDat = .lo ∧ t.trace = [.reset, .write .data false])) = true := by decide
/-- V-SH-1. -/
theorem test_shift : nextSat (exec .shift { atPhase Phase.shift .lo .hi .lo with sr := .val 0xA3 }) (fun t =>
    decide (t.sr = .val 0x51 ∧ t.ph = 0b0101#4 ∧ t.trace = [.reset])) = true := by decide
/-- V-SH-3. -/
theorem test_shift_logical : nextSat (exec .shift { atPhase Phase.shift .lo .hi .lo with sr := .val 0x80 }) (fun t =>
    decide (t.sr = .val 0x40)) = true := by decide
/-- V-CHI-3, and the sample of R39. -/
theorem test_clkHi_field_switch : nextSat (exec .clkHi (atClkHi (.val 1) (.val .addr) (.val 0xA3))) (fun t =>
    decide (t.sr = .val 0xA3 ∧ t.cnt = .val 8 ∧ t.fld = .val .data ∧ t.ph = 0b0010#4 ∧ t.pinClk = .hi ∧
      t.recvRise.samples = [.hi] ∧ t.recvFall.samples = [.hi] ∧ t.trace = [.reset, .write .clock true])) = true := by decide
/-- V-CHI-4. -/
theorem test_clkHi_end_of_frame : nextSat (exec .clkHi (atClkHi (.val 1) (.val .data) .undef)) (fun t =>
    decide (t.cnt = .val 0 ∧ t.fld = .val .data ∧ t.ph = 0b0110#4)) = true := by decide
/-- V-LHI-1, and V-RCV-1 for the receiver that commits on rising edges. -/
theorem test_latHi_commits : nextSat (exec .latHi { atPhase Phase.latHi .hi .hi .lo with
      recvRise := { samples := twelve.map levelOf, regs := .known [] } }) (fun t =>
    decide (t.pinLat = .hi ∧ t.ph = 0b0111#4 ∧ t.recvRise.samples = [] ∧ t.recvRise.regs.read 5 = some (.val 0xA3) ∧
      t.recvRise.regs.read 4 = some .undef ∧ t.trace = [.reset, .write .latch true])) = true := by decide
/-- V-LHO-1. -/
theorem test_latHold : nextSat (exec .latHold (atPhase Phase.latHold .hi .hi .hi)) (fun t =>
    decide (t.ph = 0b1000#4 ∧ t.pinLat = .hi ∧ t.trace = [.reset, .hold 1000])) = true := by decide
/-- V-LLE-1. -/
theorem test_latLoEnd : nextSat (exec .latLoEnd (atPhase Phase.latLoEnd .hi .hi .hi)) (fun t =>
    decide (t.ph = 0b0000#4 ∧ t.busy = false ∧ t.pinLat = .lo ∧
      t.trace = [.reset, .write .latch false, .done])) = true := by decide
/-- V-RCV-2: the receiver that commits on falling edges. -/
theorem test_latLoEnd_commits : nextSat (exec .latLoEnd { atPhase Phase.latLoEnd .hi .hi .hi with
      recvFall := { samples := twelve.map levelOf, regs := .known [(5, 0x11)] } }) (fun t =>
    decide (t.recvFall = { samples := [], regs := .known [(5, 0xA3)] })) = true := by decide
/-- R25 and R71: the host's write of the slot. -/
theorem test_send_writes_slot : nextSat (exec (.send 0x05 0xA3) ready) (fun t =>
    decide (t.cmdAddr = .val 0x05 ∧ t.cmdData = .val 0xA3 ∧ t.cmdValid = true ∧ t.trace = [.reset])) = true := by decide
/-- R73: while a command waits the host's move changes nothing. -/
theorem test_send_waits : nextSat (exec (.send 0x05 0x11) posted) (fun t => decide (t.cmdAddr = .val 0xE2 ∧
    t.cmdData = .val 0xA3 ∧ t.hostWaiting = true)) = true := by decide

/-! ### Faults and reset -/

/-- V-FLT-1 and V-FLT-2. -/
theorem test_fault_reserved :
    faultsWith (sequencerStep false (atPhase 0b1001#4 .hi .hi .lo)) .reservedPhase = true ∧
    faultsWith (sequencerStep false { posted with ph := 0b1111#4 }) .reservedPhase = true := by decide
/-- V-FLT-3 to V-FLT-6. -/
theorem test_fault_counter :
    faultsWith (exec .clkHi (atClkHi (.val 0) (.val .addr) (.val 0))) .counterOutOfRange = true ∧
    faultsWith (exec .clkHi (atClkHi (.val 5) (.val .addr) (.val 0))) .counterOutOfRange = true ∧
    faultsWith (exec .clkHi (atClkHi (.val 8) (.val .addr) (.val 0))) .counterOutOfRange = true ∧
    faultsWith (exec .clkHi (atClkHi (.val 9) (.val .data) (.val 0))) .counterOutOfRange = true := by decide
/-- V-FLT-7 and V-FLT-8. -/
theorem test_fault_undefined :
    faultsWith (exec .datSet (atPhase Phase.datSet .lo .lo .lo)) .readUndefined = true ∧
    faultsWith (exec .clkHi (atClkHi (.val 1) (.val .addr) .undef)) .readUndefined = true := by decide
/-- V-RST-1 from a reserved phase, and V-RST-2. -/
theorem test_reset_wins :
    nextSat (sequencerStep true { posted with ph := 0b1001#4, pinClk := .hi, sr := .val 1 }) (fun t =>
      decide (t.ph = 0b0000#4 ∧ t.cmdValid = false ∧ t.sr = .undef ∧ t.cmdAddr = .undef ∧ t.pinClk = .x ∧
        t.trace = [.reset, .reset])) = true := by decide
/-- V-RST-3. -/
theorem test_power_on : State.reset.trace = [.reset] ∧ State.reset.pinLat = .x ∧ State.reset.sr = .undef ∧
    State.reset.recvRise.regs.read 0 = some .undef := by decide
/-- The first step after power-on sets the pin directions (R116), and the next is the host's write. -/
theorem test_first_step : nextSat (step (State.launch [{ addr := 1, data := 2 }] [] 250)) (fun t =>
    decide (t.pinsConfigured = true ∧ t.cmdValid = false) &&
      nextSat (step t) (fun u => decide (u.cmdValid = true ∧ u.cmdAddr = .val 1))) = true := by decide
/-- A placed word is what the first step after reset runs. -/
theorem test_placed_words :
    nextSat (step (State.reset.withFetchWord 16 0xA305)) (fun t => decide (t.cmdAddr = .val 0x05 ∧ t.cmdValid = true)) = true ∧
    nextSat (step (State.reset.withFetchWord 8 0x10)) (fun t => decide (t.trace = [.reset, .accept 0 0])) = true ∧
    nextSat (step (State.reset.withFetchWord 8 0x05)) (fun t => decide (t.trace = [.reset, .write .clock true])) = true := by decide

/-! ### Program text -/

/-- V-ENC-10, with a label and a comment. -/
theorem test_text_binary : textProgram "start: SEND 0b1111, 0xFF ; all ones".toList = .ok [{ addr := 0x0F, data := 0xFF }] := by
  decide
/-- V-ENC-11. -/
theorem test_text_decimal : textProgram "SEND 16, 1".toList = .ok [{ addr := 0x10, data := 0x01 }] := by decide
/-- V-ENC-12. -/
theorem test_text_out_of_range : textProgram "SEND 256, 0".toList = .error .literalOutOfRange ∧
    textProgram "SEND 0, 0x100".toList = .error .literalOutOfRange := by decide
/-- R68: no other statement exists. -/
theorem test_text_no_other_statement : textProgram "CLK_LO".toList = .error .notASend := by decide

/-! ### Witnesses: the hypotheses of each statement are met -/

theorem nextSat_exists {r : Result} {p : State → Bool} (h : nextSat r p = true) : ∃ t, r = .next t ∧ p t = true := by
  cases r with
  | next t => exact ⟨t, rfl, h⟩
  | fault f => cases h
  | refused f => cases h

/-- `booted` with an empty slot, a command posted, or a command in progress meets the invariant. -/
theorem inv_booted : booted.Inv where
  rule :=
    { slot := by decide, start := by decide, cellCount := by simp [inCell, booted, State.reset]
      cellLatch := by simp [inCell, booted, State.reset], pulse := by simp [inLatchPulse, booted, State.reset]
      pulseLatch := by decide, notReserved := by decide }
  slotArgs := by simp [booted, State.reset]
  working := by simp [booted, State.reset]
  configured := by decide
  clockLow := by decide
  dataKnown := by decide
  latchLow := by decide
  memRise := by decide
  memFall := by decide

theorem inv_posted : posted.Inv where
  rule :=
    { slot := by decide, start := by decide, cellCount := by simp [inCell, posted, booted, State.reset]
      cellLatch := by simp [inCell, posted, booted, State.reset]
      pulse := by simp [inLatchPulse, posted, booted, State.reset]
      pulseLatch := by decide, notReserved := by decide }
  slotArgs := fun _ => ⟨0xE2, 0xA3, rfl, rfl⟩
  working := by simp [posted, booted, State.reset]
  configured := by decide
  clockLow := by decide
  dataKnown := by decide
  latchLow := by decide
  memRise := by decide
  memFall := by decide

theorem inv_in_cell : (atClkHi (.val 1) (.val .addr) (.val 0xA3)).Inv where
  rule :=
    { slot := by decide, start := by decide, cellCount := fun _ => ⟨.addr, 1, rfl, rfl, by decide⟩
      cellLatch := fun _ => rfl, pulse := by simp [inLatchPulse, atClkHi, atPhase, booted, State.reset]
      pulseLatch := by decide, notReserved := by decide }
  slotArgs := by simp [atClkHi, atPhase, booted, State.reset]
  working := fun _ => ⟨0, 0xA3, rfl, rfl⟩
  configured := by decide
  clockLow := by decide
  dataKnown := by decide
  latchLow := by decide
  memRise := by decide
  memFall := by decide

theorem reachable_booted : Reachable booted := ⟨[], [], 1000, 1, by decide, rfl⟩

theorem witness_CommandWordHoldsDataAboveAddress : 0 < 8 ∧ 7 < 8 := by decide
theorem witness_DecodeAndEncodeAgree : decode (.usel5 0b10101#5) = .ok .clkHi ∧ decode (.cmd16 0xA305#16) = .ok (.send 5 0xA3) ∧
    decode (.usel5 0b01001#5) = .error (.reservedPhase 9) ∧ decode (.usel5 0b11111#5) = .error (.reservedPhase 15) := by decide
theorem witness_FrameIsTheFrameWordLsbFirst : (0 ≤ 3 ∧ 3 ≤ 3) ∧ (4 ≤ 4 ∧ 4 ≤ 11) ∧ (4 ≤ 11 ∧ 11 ≤ 11) := by decide
theorem witness_StepRunsTheSelectedMicroOperation : posted.nextTurn = .sequencer false ∧
    decode (.usel5 (selectorWord posted.cmdValid posted.ph)) = .ok .accept := by decide
theorem witness_StepRunsTheHostsCommand : State.reset.nextTurn = .host ∧ State.reset.pinsConfigured = false ∧
    ({ booted with schedule := [.host] } : State).nextTurn = .host ∧ booted.pinsConfigured = true ∧ booted.hostProgram = [] ∧
    ready.nextTurn = .host ∧ ready.pinsConfigured = true ∧
    ready.hostProgram = { addr := 0x05, data := 0xA3 } :: [] := by decide
theorem witness_PlacedWordRunsNext : decodeTableWord 16 0xFFFF = some (.send 0xFF 0xFF) ∧ decodeTableWord 0 0 = some (.send 0 0) ∧
    decodeTableWord 8 0 = some .idle ∧ decodeTableWord 8 0x18 = some .latLoEnd := by decide
theorem witness_ResetActionFromEveryState : ({ booted with trace := [] } : State).trace = [] ∧
    ({ posted with schedule := [.sequencer true] } : State).nextTurn = .sequencer true := by decide
theorem witness_ResetKeepsReceiverAndDropsTheCall : posted.hostWaiting = true ∧ ready.hostWaiting = false := by decide
theorem witness_ResetAndDecodePriorities :
    faultsWith (exec .clkHi (atClkHi (.val 0) (.val .addr) (.val 0))) .counterOutOfRange = true ∧
    phaseReserved 9 = true ∧ phaseReserved 15 = true ∧
    ready.slotFree = true ∧ ready.hostWaiting = false ∧ ready.pinsConfigured = true ∧
    ready.hostProgram = { addr := 0x05, data := 0xA3 } :: [] := by decide
theorem witness_IdleChangesNothing : booted.ph = Phase.idle ∧ booted.cmdValid = false := by decide
theorem witness_AcceptTakesTheWaitingCommand : posted.cmdAddr = .val 0xE2 ∧ posted.cmdData = .val 0xA3 := by decide
theorem witness_LatLoStartDrivesLatchLow : booted.pinsConfigured = true ∧ State.reset.pinsConfigured = false := by decide
theorem witness_ClkLoDrivesClockLow : booted.pinsConfigured = true ∧ State.reset.pinsConfigured = false := by decide
theorem witness_DatSetDrivesTheCurrentBit :
    (atClkHi (.val 1) (.val .addr) (.val 0)).sr = .val 0 ∧ booted.pinsConfigured = true ∧ State.reset.pinsConfigured = false := by
  decide
theorem witness_ShiftMovesEveryBitDown : (atClkHi (.val 1) (.val .addr) (.val 0)).sr = .val 0 ∧ 0 < 7 ∧ 6 < 7 := by decide
theorem witness_ClkHiCountsDownWithinAField :
    (∀ n ∈ [(2 : Nibble), 4], (atClkHi (.val n) (.val .addr) .undef).cnt = .val n ∧ 2 ≤ n.toNat ∧ n.toNat ≤ 4) ∧
    (∀ n ∈ [(2 : Nibble), 8], (atClkHi (.val n) (.val .data) .undef).cnt = .val n ∧ 2 ≤ n.toNat ∧ n.toNat ≤ 8) ∧
    (atClkHi (.val 2) (.val .addr) .undef).fld = .val .addr ∧ (atClkHi (.val 2) (.val .data) .undef).fld = .val .data ∧
    (atClkHi (.val 2) (.val .addr) .undef).pinsConfigured = true ∧ (atClkHi (.val 2) (.val .addr) .undef).pinClk = .lo ∧
    (atPhase Phase.clkHi .hi .lo .lo).pinClk = .hi := by decide
theorem witness_ClkHiSwitchesTheField :
    (atClkHi (.val 1) (.val .addr) (.val 0xA3)).cnt = .val 1 ∧ (atClkHi (.val 1) (.val .addr) (.val 0xA3)).fld = .val .addr ∧
    (atClkHi (.val 1) (.val .addr) (.val 0xA3)).dreg = .val 0xA3 ∧
    (atClkHi (.val 1) (.val .addr) (.val 0xA3)).pinsConfigured = true ∧
    (atClkHi (.val 1) (.val .addr) (.val 0xA3)).pinClk = .lo := by decide
theorem witness_ClkHiEndsTheFrame :
    (atClkHi (.val 1) (.val .data) .undef).cnt = .val 1 ∧ (atClkHi (.val 1) (.val .data) .undef).fld = .val .data ∧
    (atClkHi (.val 1) (.val .data) .undef).pinsConfigured = true ∧ (atClkHi (.val 1) (.val .data) .undef).pinClk = .lo := by decide
theorem witness_LatHiDrivesLatchHigh : booted.pinsConfigured = true ∧ State.reset.pinsConfigured = false := by decide
theorem witness_LatLoEndCompletesTheCommand : booted.pinsConfigured = true ∧ State.reset.pinsConfigured = false := by decide
theorem witness_SendWritesTheFreeSlot : ready.cmdValid = false ∧ ready.busy = false ∧ ready.hostWaiting = false := by decide
theorem witness_SendWaitsWhileTakenAndReturnsWhenFree :
    posted.cmdValid = true ∧ (atPhase Phase.latHi .hi .hi .lo).busy = true ∧
    ({ ready with hostWaiting := true } : State).cmdValid = false ∧ ({ ready with hostWaiting := true } : State).busy = false ∧
    ({ ready with hostWaiting := true } : State).hostWaiting = true := by decide
theorem witness_SlotFilledByHostTakenByAccept :
    nextSat (step ready) (fun t => decide (ready.cmdValid = false ∧ t.cmdValid = true)) = true ∧
    nextSat (step posted) (fun t => decide (posted.cmdValid = true ∧ t.cmdValid = false)) = true := by decide
theorem witness_SendAppendsExactlyThisTrace : ready.slotFree = true ∧ ready.hostWaiting = false ∧
    ready.pinsConfigured = true := by decide
theorem witness_SendEndState : ready.ph = Phase.idle ∧ ready.cmdValid = false ∧ ready.hostWaiting = false ∧
    ready.pinsConfigured = true := by decide
theorem witness_SequencerRefinesTheCommand : posted.ph = Phase.idle ∧ posted.cmdValid = true ∧ posted.cmdAddr = .val 0xE2 ∧
    posted.cmdData = .val 0xA3 ∧ posted.pinsConfigured = true := by decide
theorem witness_SamplesOfASendAreItsFrame : ready.slotFree = true ∧ ready.hostWaiting = false ∧
    ready.pinsConfigured = true := by decide
theorem witness_LatchPulsesOnlyAfterTheTwelfthBit : ready.slotFree = true ∧ ready.hostWaiting = false ∧
    ready.pinsConfigured = true := by decide
theorem witness_EdgesOfOneSend : ready.slotFree = true ∧ ready.hostWaiting = false ∧ ready.pinsConfigured = true ∧
    ready.pinClk = .x ∧ ({ ready with pinClk := .hi, pinLat := .lo } : State).slotFree = true := by decide
theorem witness_IdleAgainInExactlyFiftyThreeSteps : posted.ph = Phase.idle ∧ posted.cmdValid = true ∧
    posted.cmdAddr = .val 0xE2 ∧ posted.cmdData = .val 0xA3 ∧ posted.pinsConfigured = true ∧ 0 ≤ 53 ∧ 53 ≤ 53 := by decide
theorem witness_EachCellDrivesItsBit : posted.ph = Phase.idle ∧ posted.cmdValid = true ∧ posted.cmdAddr = .val 0xE2 ∧
    posted.cmdData = .val 0xA3 ∧ posted.pinsConfigured = true ∧ 3 ≤ 3 ∧ 7 ≤ 7 := by decide
/-- V-SEND-6 and V-SEND-7, from two states with different levels and stale registers. -/
theorem witness_WireEventsDependOnAddressNibbleAndData :
    ready.slotFree = true ∧ ready.hostWaiting = false ∧ ready.pinsConfigured = true ∧
    ({ ready with sr := .val 7, pinClk := .hi } : State).slotFree = true ∧
    ({ ready with sr := .val 7, pinClk := .hi } : State).hostWaiting = false ∧
    ({ ready with sr := .val 7, pinClk := .hi } : State).pinsConfigured = true ∧
    txAddr 0xE2 = txAddr 0x02 ∧ ready.tLatchHold = ({ ready with sr := .val 7, pinClk := .hi } : State).tLatchHold := by decide
theorem witness_ReceiverCommitsTwelveSamples :
    CommitEdge.rise.seenIn .lo (levelOf true) = .yes ∧ CommitEdge.fall.seenIn .hi (levelOf false) = .yes ∧
    (atPhase Phase.clkHi .lo .hi .lo).pinClk = .lo ∧
    twelve.length = 12 ∧ ([] : List Level).length = 0 ∧ [Level.lo].length ≠ 0 ∧ [Level.lo].length ≠ 12 ∧
    (List.replicate 13 Level.lo).length ≠ 12 ∧
    (∀ i : Fin 4, twelve[i.val]? = some ((5 : Nibble).getLsbD i.val)) ∧
    (∀ j : Fin 8, twelve[4 + j.val]? = some ((0xA3 : Byte).getLsbD j.val)) := by decide
theorem witness_LatchMicroOperationsStoreAtTheSampledAddress :
    ∃ s t, s.pinsConfigured = true ∧ (s.receiver .rise).regs = .known [] ∧ (s.receiver .rise).samples = twelve.map levelOf ∧
      twelve.length = 12 ∧ exec .latHi s = .next t ∧ CommitEdge.rise.seenIn s.pinLat (levelOf true) = .yes ∧
      CommitEdge.fall.seenIn s.pinLat (levelOf true) = .no :=
  ⟨{ atPhase Phase.latHi .hi .hi .lo with recvRise := { samples := twelve.map levelOf, regs := .known [] } }, _,
    rfl, rfl, rfl, rfl, rfl, rfl, rfl⟩
theorem witness_SendWritesOneReceiverRegister : ready.slotFree = true ∧ ready.hostWaiting = false ∧
    ready.pinsConfigured = true ∧ (ready.receiver .rise).samples = [] ∧ (ready.receiver .fall).samples = [] ∧
    (ready.receiver .rise).regs = .known [] ∧ (ready.receiver .fall).regs = .known [] := by decide
theorem witness_CarriedReceiversObserveTheTrace : booted.Inv ∧ booted.Observes ∧ ∃ t, step booted = .next t :=
  ⟨inv_booted, ⟨rfl, rfl⟩, _, rfl⟩
theorem witness_BothCommitEdgesAgreeWithoutReset :
    (∀ x ∈ [Turn.host, Turn.sequencer false], x ≠ Turn.sequencer true) ∧
    ∃ s, runSteps 2 (State.launch [{ addr := 1, data := 2 }] [.host, .sequencer false] 250) = .next s := ⟨by decide, _, rfl⟩
theorem witness_ResetDuringACommand : posted.ph = Phase.idle ∧ posted.cmdValid = true ∧ posted.cmdAddr = .val 0xE2 ∧
    posted.cmdData = .val 0xA3 ∧ posted.pinsConfigured = true ∧ posted.recvRise.samples = [] ∧ posted.recvFall.samples = [] ∧
    (∀ k ∈ [1, 5, 6, 50, 51, 52], 1 ≤ k ∧ k ≤ 52) := by decide
theorem witness_LeftoverSamplesLeaveTheRegistersUnspecified :
    ({ posted with recvFall := { samples := [.hi], regs := .known [] } } : State).ph = Phase.idle ∧
    posted.cmdValid = true ∧ posted.cmdAddr = .val 0xE2 ∧ posted.cmdData = .val 0xA3 ∧ posted.pinsConfigured = true ∧
    posted.pinLat = .x ∧
    (({ posted with recvFall := { samples := [.hi], regs := .known [] } } : State).receiver .fall).samples ≠ [] ∧
    nextSat (step { posted with recvFall := { samples := [], regs := .unspecified } }) (fun _ => true) = true ∧
    (({ posted with recvFall := { samples := [], regs := .unspecified } } : State).receiver .fall).regs = .unspecified := by decide
theorem witness_EveryStepKeepsTheInvariant : (booted.Inv ∧ ∃ t, step booted = .next t) ∧
    (posted.Inv ∧ ∃ t, step posted = .next t) ∧
    ((atClkHi (.val 1) (.val .addr) (.val 0xA3)).Inv ∧ ∃ t, step (atClkHi (.val 1) (.val .addr) (.val 0xA3)) = .next t) :=
  ⟨⟨inv_booted, _, rfl⟩, ⟨inv_posted, _, rfl⟩, inv_in_cell, _, rfl⟩
theorem witness_InvariantStatesAlwaysStep : booted.Inv ∧ posted.Inv ∧ (atClkHi (.val 1) (.val .addr) (.val 0xA3)).Inv :=
  ⟨inv_booted, inv_posted, inv_in_cell⟩
theorem witness_ReachableStatesMeetRuleThirty : Reachable booted := reachable_booted
theorem witness_ModelFaultsAndTheirConditions : Reachable booted ∧ step (atPhase 9 .hi .hi .lo) = .fault .reservedPhase :=
  ⟨reachable_booted, rfl⟩
theorem witness_ReservedPhasesFaultAndAreNeverWritten : 9 ≤ (9 : Nibble).toNat ∧ 9 ≤ (15 : Nibble).toNat ∧
    nextSat (exec .latHi (atPhase Phase.latHi .hi .hi .lo)) (fun t => decide (t.ph ≠ Phase.latHi)) = true ∧
    nextSat (sequencerStep true (atPhase 9 .hi .hi .lo)) (fun _ => true) = true := by decide
/-- Each clause of the successor relation. -/
theorem witness_PhaseSuccessors :
    nextSat (sequencerStep true posted) (fun _ => true) = true ∧ 9 ≤ (9 : Nibble).toNat ∧
    nextSat (sequencerStep false booted) (fun _ => true) = true ∧
    nextSat (sequencerStep false posted) (fun _ => true) = true ∧
    (∀ ph ∈ [Phase.latLoStart, Phase.clkLo, Phase.latHi, Phase.latHold, Phase.latLoEnd],
      nextSat (sequencerStep false (atPhase ph .lo .lo .lo)) (fun _ => true) = true) ∧
    (∀ ph ∈ [Phase.datSet, Phase.shift],
      nextSat (sequencerStep false { atPhase ph .lo .lo .lo with sr := .val 1 }) (fun _ => true) = true) ∧
    nextSat (sequencerStep false (atClkHi (.val 2) (.val .addr) .undef)) (fun _ => true) = true ∧
    nextSat (sequencerStep false (atClkHi (.val 8) (.val .data) .undef)) (fun _ => true) = true ∧
    nextSat (sequencerStep false (atClkHi (.val 1) (.val .addr) (.val 0))) (fun _ => true) = true ∧
    nextSat (sequencerStep false (atClkHi (.val 1) (.val .data) .undef)) (fun _ => true) = true := by decide
theorem witness_EachPinAndRegisterHasItsWriters : ∃ t, exec .latHold booted = .next t := ⟨_, rfl⟩
theorem witness_NoOperationReadsAPinOrTheReceiver :
    ∃ t, exec .clkHi (atClkHi (.val 1) (.val .addr) (.val 0xA3)) = .next t := ⟨_, rfl⟩
theorem witness_TraceOnlyGrows : ∃ t, step posted = .next t := ⟨_, rfl⟩
theorem witness_DataStableWhileClockHigh : Reachable booted := reachable_booted
/-- One command run from power-on as far as its latch hold: a hold of exactly the minimum. -/
theorem witness_EveryLatchHoldMeetsTheMinimum : ∃ s, Reachable s ∧ Event.hold 250 ∈ s.trace := by
  obtain ⟨s, hs, h⟩ := nextSat_exists (r := runSteps 54 (State.launch [{ addr := 0x05, data := 0xA3 }] [] 250))
    (p := fun t => decide (Event.hold 250 ∈ t.trace)) (by decide)
  exact ⟨s, ⟨_, _, _, _, by decide, hs⟩, by simpa using h⟩
theorem witness_SequencerProgress : (posted.Inv ∧ posted.cmdValid = true ∧ posted.schedule = []) ∧
    ((atClkHi (.val 1) (.val .addr) (.val 0xA3)).Inv ∧ (atClkHi (.val 1) (.val .addr) (.val 0xA3)).ph ≠ Phase.idle) :=
  ⟨⟨inv_posted, rfl, rfl⟩, inv_in_cell, by decide⟩
theorem witness_UninterruptedSendReturns : ready.slotFree = true ∧ ready.hostWaiting = false ∧ ready.pinsConfigured = true ∧
    ready.hostProgram = { addr := 0x05, data := 0xA3 } :: [] ∧ ready.schedule = [] := by decide
theorem witness_LiteralsOutsideAByteAreRefused : (255 ≤ 255 ∧ 0 ≤ 255) ∧ 255 < 256 := by decide

end Sys2Proof.Tests
end

/-! SUPPORT. No operation, host move or reset takes an event back or writes the latch hold (R6, R8, R33). -/

namespace Sys2Proof.Machine

/-- `t` comes from `s` by events appended to the trace, under the same latch hold (R6, R8). -/
def State.GrowsTo (s t : State) : Prop := (∃ es, t.trace = s.trace ++ es) ∧ t.tLatchHold = s.tLatchHold

namespace State.GrowsTo

theorem of_append {s t : State} (es : List Event) (ht : t.trace = s.trace ++ es) (hh : t.tLatchHold = s.tLatchHold) :
    s.GrowsTo t := ⟨⟨es, ht⟩, hh⟩

theorem of_same {s t : State} (ht : t.trace = s.trace) (hh : t.tLatchHold = s.tLatchHold) : s.GrowsTo t :=
  of_append [] (by simp [ht]) hh

end State.GrowsTo

open State.GrowsTo

theorem execSend_growsTo {a d : Byte} {s t : State} (h : execSend a d s = .next t) : s.GrowsTo t := by
  obtain ⟨-, -, rfl⟩ | ⟨-, -, rfl⟩ | ⟨-, rfl⟩ := execSend_cases h <;> exact of_same rfl rfl

/-- CLK_HI appends its one pin write in each of its three cases (R86). -/
theorem execClkHi_growsTo {s t : State} (h : execClkHi s = .next t) : s.GrowsTo t := by
  obtain ⟨_, _, -, -, -, -, rfl⟩ | ⟨_, _, -, -, -, -, rfl⟩ | ⟨_, -, -, -, rfl⟩ := execClkHi_cases h <;>
    exact of_append [.write .clock true] rfl rfl

/-- Each operation appends the events its rule names (R71, R80 to R89). -/
theorem exec_growsTo {i : Instr} {s t : State} (h : exec i s = .next t) : s.GrowsTo t := by
  cases i with
  | send a d => exact execSend_growsTo h
  | idle => cases h; exact of_same rfl rfl
  | accept =>
    obtain ⟨a, d, -, -, rfl⟩ := execAccept_cases h
    exact of_append [.accept a d] rfl rfl
  | latLoStart => cases h; exact of_append [.write .latch false] rfl rfl
  | clkLo => cases h; exact of_append [.write .clock false] rfl rfl
  | datSet =>
    obtain ⟨v, -, rfl⟩ := execDatSet_cases h
    exact of_append [.write .data (currentLsb v)] rfl rfl
  | shift =>
    obtain ⟨v, -, rfl⟩ := execShift_cases h
    exact of_same rfl rfl
  | clkHi => exact execClkHi_growsTo h
  | latHi => cases h; exact of_append [.write .latch true] rfl rfl
  | latHold => cases h; exact of_append [.hold s.tLatchHold] rfl rfl
  | latLoEnd => cases h; exact of_append [.write .latch false, .done] (by simp) rfl

/-- A sequencer step appends `Reset`, or what its micro-operation appends (R79, R100). -/
theorem sequencerStep_growsTo {rst : Bool} {s t : State} (h : sequencerStep rst s = .next t) : s.GrowsTo t := by
  cases rst with
  | true => cases h; exact of_append [.reset] rfl rfl
  | false =>
    obtain ⟨i, -, hi⟩ := sequencerStep_next h
    exact exec_growsTo hi

/-- A move of the host appends nothing: only the block makes events (R8). -/
theorem hostStep_trace_hold {s t : State} (h : hostStep s = .next t) :
    t.trace = s.trace ∧ t.tLatchHold = s.tLatchHold := by
  obtain ⟨-, e⟩ | ⟨c, _, -, -, -, -, e⟩ | ⟨_, _, -, -, -, -, e⟩ | ⟨-, -, e⟩ := hostStep_cases s <;>
    (cases e.symm.trans h; exact ⟨rfl, rfl⟩)

theorem runTurn_growsTo {turn : Turn} {s t : State} (h : runTurn turn s = .next t) : s.GrowsTo t := by
  cases turn with
  | host =>
    obtain ⟨ht, hh⟩ := hostStep_trace_hold h
    exact of_same ht hh
  | sequencer rst => exact sequencerStep_growsTo h

/-- Settles O53: taking the turn off the schedule changes neither field, and either agent's turn only grows the trace. -/
theorem traceOnlyGrows : Obligations.TraceOnlyGrows := by
  intro s t h
  have grown : s.turnTaken.GrowsTo t := runTurn_growsTo h
  simpa [State.GrowsTo] using grown

end Sys2Proof.Machine

/-! SUPPORT. What the operations that read answer, from what they read (the converses of their inversions), and the
sequencer's step phase by phase. -/

namespace Sys2Proof.Machine

section
variable {s : State}

/-! ### What an operation answers, given what it reads -/

theorem execAccept_eq {a d : Byte} (ha : s.cmdAddr = .val a) (hd : s.cmdData = .val d) :
    execAccept s = .next { s.emit (.accept a d) with
      sr := .val a, dreg := .val d, cnt := .val 4, fld := .val .addr, cmdValid := false, ph := Phase.latLoStart } := by
  simp [execAccept, ha, hd]

theorem execDatSet_eq {v : Byte} (hv : s.sr = .val v) :
    execDatSet s = .next { s.pinWrite .data (currentLsb v) with ph := Phase.shift } := by
  simp [execDatSet, hv]

theorem execShift_eq {v : Byte} (hv : s.sr = .val v) :
    execShift s = .next { s with sr := .val (shiftRightOne v), ph := Phase.clkHi } := by
  simp [execShift, hv]

theorem execClkHi_within {n : Nibble} {f : Field} (hn : s.cnt = .val n) (hf : s.fld = .val f)
    (hr : countInRange f n = true) (h2 : 2 ≤ n.toNat) :
    execClkHi s = .next { s.pinWrite .clock true with cnt := .val (n - 1), ph := Phase.clkLo } := by
  simp [execClkHi, hn, hf, hr, h2]

theorem execClkHi_switch {n : Nibble} {d : Byte} (hn : s.cnt = .val n) (hf : s.fld = .val .addr) (h1 : n.toNat = 1)
    (hd : s.dreg = .val d) :
    execClkHi s = .next { s.pinWrite .clock true with
      sr := .val d, cnt := .val 8, fld := .val .data, ph := Phase.clkLo } := by
  simp [execClkHi, hn, hf, countInRange, h1, hd]

theorem execClkHi_end {n : Nibble} (hn : s.cnt = .val n) (hf : s.fld = .val .data) (h1 : n.toNat = 1) :
    execClkHi s = .next { s.pinWrite .clock true with cnt := .val 0, ph := Phase.latHi } := by
  simp [execClkHi, hn, hf, countInRange, h1]

theorem execSend_post {a d : Byte} (hfree : s.slotFree = true) (hw : s.hostWaiting = false) :
    execSend a d s = .next (s.postCommand a d) := by
  simp [execSend, hfree, hw]

theorem execSend_return {a d : Byte} (hfree : s.slotFree = true) (hw : s.hostWaiting = true) :
    execSend a d s = .next s.returnCall := by
  simp [execSend, hfree, hw]

theorem execSend_wait {a d : Byte} (hfree : s.slotFree = false) : execSend a d s = .next s := by
  simp [execSend, hfree]

end

/-! ### The sequencer's step -/

/-- What a sequencer step that answers a next state performed, phase by phase (R63, R79). -/
inductive SequencerMove (s t : State) : Prop
  | idle (hph : s.ph = Phase.idle) (hv : s.cmdValid = false) (e : execIdle s = .next t)
  | accept (hph : s.ph = Phase.idle) (hv : s.cmdValid = true) (e : execAccept s = .next t)
  | latLoStart (hph : s.ph = Phase.latLoStart) (e : execLatLoStart s = .next t)
  | clkLo (hph : s.ph = Phase.clkLo) (e : execClkLo s = .next t)
  | datSet (hph : s.ph = Phase.datSet) (e : execDatSet s = .next t)
  | shift (hph : s.ph = Phase.shift) (e : execShift s = .next t)
  | clkHi (hph : s.ph = Phase.clkHi) (e : execClkHi s = .next t)
  | latHi (hph : s.ph = Phase.latHi) (e : execLatHi s = .next t)
  | latHold (hph : s.ph = Phase.latHold) (e : execLatHold s = .next t)
  | latLoEnd (hph : s.ph = Phase.latLoEnd) (e : execLatLoEnd s = .next t)

theorem sequencerStep_move {s t : State} (h : sequencerStep false s = .next t) : SequencerMove s t := by
  obtain hph | hph | hph | hph | hph | hph | hph | hph | hph | hr := phase_cases s.ph
  · cases hv : s.cmdValid with
    | false => exact .idle hph hv (sequencerStep_idle hph hv ▸ h)
    | true => exact .accept hph hv (sequencerStep_accept hph hv ▸ h)
  · exact .latLoStart hph (sequencerStep_latLoStart hph ▸ h)
  · exact .clkLo hph (sequencerStep_clkLo hph ▸ h)
  · exact .datSet hph (sequencerStep_datSet hph ▸ h)
  · exact .shift hph (sequencerStep_shift hph ▸ h)
  · exact .clkHi hph (sequencerStep_clkHi hph ▸ h)
  · exact .latHi hph (sequencerStep_latHi hph ▸ h)
  · exact .latHold hph (sequencerStep_latHold hph ▸ h)
  · exact .latLoEnd hph (sequencerStep_latLoEnd hph ▸ h)
  · cases (sequencerStep_reserved hr).symm.trans h

end Sys2Proof.Machine

/-! SUPPORT. Reset (R33, R111). -/

namespace Sys2Proof.Machine

/-- Settles O9: the receivers start with no cell, and a later reset is the reset action, which appends to the trace. -/
theorem resetLeavesTheseValues : Obligations.ResetLeavesTheseValues := by
  refine ⟨rfl, rfl, rfl, rfl, rfl, rfl, rfl, rfl, rfl, rfl, rfl, rfl, rfl, ?_, ?_⟩
  · intro e a
    cases e <;> rfl
  · intro s
    exact ⟨s.resetAction, sequencerStep_rst, resetAction_trace s⟩

end Sys2Proof.Machine

/-! SUPPORT. The invariant of R30: how a state of each group of phases meets it, and that every step keeps it. -/

namespace Sys2Proof.Machine

/-- Both receivers' memories are in their canonical form. -/
def State.MemWf (s : State) : Prop := s.recvRise.regs.wf = true ∧ s.recvFall.regs.wf = true

/-- What a command in progress has in every phase: an empty slot, `SR` and `DREG` with values, the boot premise, and
receivers in canonical form. -/
def State.InCommand (s : State) : Prop :=
  s.cmdValid = false ∧ (∃ v d, s.sr = .val v ∧ s.dreg = .val d) ∧ s.pinsConfigured = true ∧ s.MemWf

/-- R30 on the count of a bit cell: 1 to 4 in the address field, 1 to 8 in the data field. -/
def State.CellCount (s : State) : Prop :=
  ∃ f n, s.fld = .val f ∧ s.cnt = .val n ∧
    ((f = .addr ∧ 1 ≤ n.toNat ∧ n.toNat ≤ 4) ∨ (f = .data ∧ 1 ≤ n.toNat ∧ n.toNat ≤ 8))

theorem State.MemWf.pinWrite {s : State} (h : s.MemWf) (p : Pin) (b : Bool) : (s.pinWrite p b).MemWf :=
  pinWrite_memWf s p b h.1 h.2

theorem State.InCommand.pinWrite {s : State} (h : s.InCommand) (p : Pin) (b : Bool) : (s.pinWrite p b).InCommand := by
  obtain ⟨hslot, hwork, hconf, hmem⟩ := h
  exact ⟨hslot, hwork, hconf, hmem.pinWrite p b⟩

theorem State.InCommand.slotEmpty {s : State} (h : s.InCommand) : s.cmdValid = false := h.1

/-- A command in progress drives output pins (R115). -/
theorem State.InCommand.drivenLevel {s : State} (h : s.InCommand) (b : Bool) : s.drivenLevel b = levelOf b := by
  obtain ⟨-, -, hconf, -⟩ := h
  exact drivenLevel_configured hconf b

/-! ### The groups of phases -/

/-- The phases of a bit cell are in no other group. -/
theorem inCell_apart {ph : Nibble} (h : inCell ph) :
    ph ≠ Phase.idle ∧ ph ≠ Phase.latLoStart ∧ ¬inLatchPulse ph ∧ phaseReserved ph = false := by
  obtain rfl | rfl | rfl | rfl := h <;> (unfold inLatchPulse; decide)

/-- The phases of the latch pulse are in no other group. -/
theorem inLatchPulse_apart {ph : Nibble} (h : inLatchPulse ph) :
    ph ≠ Phase.idle ∧ ph ≠ Phase.latLoStart ∧ ¬inCell ph ∧ phaseReserved ph = false := by
  obtain rfl | rfl | rfl := h <;> (unfold inCell; decide)

namespace State.Inv

section
variable {s t : State}

theorem memWf (h : s.Inv) : s.MemWf := ⟨h.memRise, h.memFall⟩

theorem inCommand (h : s.Inv) (hph : s.ph ≠ Phase.idle) : s.InCommand :=
  ⟨h.rule.slot hph, h.working hph, h.configured (.inl hph), h.memWf⟩

/-! ### Which states of a group meet the invariant -/

theorem of_idle (hph : t.ph = Phase.idle)
    (hslot : t.cmdValid = true → t.pinsConfigured = true ∧ ∃ a d, t.cmdAddr = .val a ∧ t.cmdData = .val d)
    (hmem : t.MemWf) : t.Inv where
  rule :=
    { slot := absurd hph, start := by simp [hph], cellCount := by simp [hph, inCell]
      cellLatch := by simp [hph, inCell], pulse := by simp [hph, inLatchPulse], pulseLatch := by simp [hph]
      notReserved := by rw [hph]; decide }
  slotArgs := fun hv => (hslot hv).2
  working := absurd hph
  configured := fun h => h.elim (absurd hph) fun hv => (hslot hv).1
  clockLow := by simp [hph]
  dataKnown := by simp [hph]
  latchLow := by simp [hph]
  memRise := hmem.1
  memFall := hmem.2

/-- For a command in progress what is left to show are the clauses on its phase. -/
theorem of_inCommand (hc : t.InCommand) (rule : t.RuleThirty)
    (clockLow : t.ph = Phase.datSet ∨ t.ph = Phase.shift ∨ t.ph = Phase.clkHi → t.pinClk = .lo)
    (dataKnown : t.ph = Phase.shift ∨ t.ph = Phase.clkHi → t.pinDat ≠ .x)
    (latchLow : t.ph = Phase.latHi → t.pinLat = .lo) : t.Inv := by
  obtain ⟨hslot, hwork, hconf, hmemRise, hmemFall⟩ := hc
  exact
    { rule, clockLow, dataKnown, latchLow
      slotArgs := by simp [hslot]
      working := fun _ => hwork
      configured := fun _ => hconf
      memRise := hmemRise
      memFall := hmemFall }

theorem of_latLoStart (hph : t.ph = Phase.latLoStart) (hc : t.InCommand) (hfld : t.fld = .val .addr)
    (hcnt : t.cnt = .val 4) : t.Inv :=
  of_inCommand hc
    { slot := fun _ => hc.slotEmpty, start := fun _ => ⟨hfld, hcnt⟩, cellCount := by simp [hph, inCell]
      cellLatch := by simp [hph, inCell], pulse := by simp [hph, inLatchPulse], pulseLatch := by simp [hph]
      notReserved := by rw [hph]; decide }
    (by simp [hph]) (by simp [hph]) (by simp [hph])

theorem of_inCell (hcell : inCell t.ph) (hc : t.InCommand) (hcount : t.CellCount) (hlat : t.pinLat = .lo)
    (hclk : t.ph ≠ Phase.clkLo → t.pinClk = .lo)
    (hdat : t.ph = Phase.shift ∨ t.ph = Phase.clkHi → t.pinDat ≠ .x) : t.Inv := by
  obtain ⟨-, hstart, hpulse, hres⟩ := inCell_apart hcell
  have rule : t.RuleThirty :=
    { slot := fun _ => hc.slotEmpty, start := fun h => absurd h hstart, cellCount := fun _ => hcount
      cellLatch := fun _ => hlat, pulse := fun h => absurd h hpulse
      pulseLatch := fun h => absurd (.inr h) hpulse, notReserved := hres }
  refine of_inCommand hc rule (fun h => hclk ?_) hdat fun h => absurd (.inl h) hpulse
  obtain h | h | h := h <;> simp [h]

theorem of_inLatchPulse (hpulse : inLatchPulse t.ph) (hc : t.InCommand) (hfld : t.fld = .val .data)
    (hcnt : t.cnt = .val 0) (hclk : t.pinClk = .hi) (hlow : t.ph = Phase.latHi → t.pinLat = .lo)
    (hhigh : t.ph = Phase.latHold ∨ t.ph = Phase.latLoEnd → t.pinLat = .hi) : t.Inv := by
  obtain ⟨-, hstart, hcell, hres⟩ := inLatchPulse_apart hpulse
  have rule : t.RuleThirty :=
    { slot := fun _ => hc.slotEmpty, start := fun h => absurd h hstart, cellCount := fun h => absurd h hcell
      cellLatch := fun h => absurd h hcell, pulse := fun _ => ⟨hfld, hcnt, hclk⟩, pulseLatch := hhigh
      notReserved := hres }
  exact of_inCommand hc rule (fun h => absurd (.inr h) hcell) (fun h => absurd (.inr (.inr h)) hcell) hlow

end

end State.Inv

/-! ### The micro-operations -/

/-- Within a field the count that CLK_HI leaves is one lower and still in the field's range (R86). -/
theorem countInRange_pred {f : Field} {n : Nibble} (h : countInRange f n = true) (h2 : 2 ≤ n.toNat) :
    (f = .addr ∧ 1 ≤ (n - 1).toNat ∧ (n - 1).toNat ≤ 4) ∨ (f = .data ∧ 1 ≤ (n - 1).toNat ∧ (n - 1).toNat ≤ 8) := by
  have hpred : (n - 1).toNat = n.toNat - 1 := by bv_omega
  cases f with
  | addr =>
    simp only [countInRange, decide_eq_true_eq] at h
    exact .inl ⟨rfl, by omega, by omega⟩
  | data =>
    simp only [countInRange, decide_eq_true_eq] at h
    exact .inr ⟨rfl, by omega, by omega⟩

section
variable {s t : State}

theorem execAccept_keepsInv (h : s.Inv) (hv : s.cmdValid = true) (e : execAccept s = .next t) : t.Inv := by
  obtain ⟨a, d, -, -, rfl⟩ := execAccept_cases e
  exact .of_latLoStart rfl ⟨rfl, ⟨a, d, rfl, rfl⟩, h.configured (.inr hv), h.memWf⟩ rfl rfl

theorem execLatLoStart_keepsInv (h : s.Inv) (hph : s.ph = Phase.latLoStart) (e : execLatLoStart s = .next t) : t.Inv := by
  have hc : s.InCommand := h.inCommand (by simp [hph])
  obtain ⟨hfld, hcnt⟩ := h.rule.start hph
  cases e
  exact .of_inCell (.inl rfl) (hc.pinWrite .latch false) ⟨.addr, 4, hfld, hcnt, by decide⟩ (hc.drivenLevel false)
    (absurd rfl) (by simp)

theorem execClkLo_keepsInv (h : s.Inv) (hph : s.ph = Phase.clkLo) (e : execClkLo s = .next t) : t.Inv := by
  have hc : s.InCommand := h.inCommand (by simp [hph])
  have hcell : inCell s.ph := .inl hph
  cases e
  exact .of_inCell (.inr (.inl rfl)) (hc.pinWrite .clock false) (h.rule.cellCount hcell) (h.rule.cellLatch hcell)
    (fun _ => hc.drivenLevel false) (by simp)

theorem execDatSet_keepsInv (h : s.Inv) (hph : s.ph = Phase.datSet) (e : execDatSet s = .next t) : t.Inv := by
  have hc : s.InCommand := h.inCommand (by simp [hph])
  have hcell : inCell s.ph := .inr (.inl hph)
  obtain ⟨v, -, rfl⟩ := execDatSet_cases e
  exact .of_inCell (.inr (.inr (.inl rfl))) (hc.pinWrite .data (currentLsb v)) (h.rule.cellCount hcell)
    (h.rule.cellLatch hcell) (fun _ => h.clockLow (.inl hph)) (fun _ => by simpa [hc.drivenLevel] using levelOf_ne_x _)

theorem execShift_keepsInv (h : s.Inv) (hph : s.ph = Phase.shift) (e : execShift s = .next t) : t.Inv := by
  obtain ⟨hslot, ⟨-, d, -, hd⟩, hconf, hmem⟩ := h.inCommand (by simp [hph])
  have hcell : inCell s.ph := .inr (.inr (.inl hph))
  obtain ⟨v, -, rfl⟩ := execShift_cases e
  exact .of_inCell (.inr (.inr (.inr rfl))) ⟨hslot, ⟨_, d, rfl, hd⟩, hconf, hmem⟩ (h.rule.cellCount hcell)
    (h.rule.cellLatch hcell) (fun _ => h.clockLow (.inr (.inl hph))) (fun _ => h.dataKnown (.inl hph))

theorem execClkHi_keepsInv (h : s.Inv) (hph : s.ph = Phase.clkHi) (e : execClkHi s = .next t) : t.Inv := by
  have hc : s.InCommand := h.inCommand (by simp [hph])
  have hw : (s.pinWrite .clock true).InCommand := hc.pinWrite .clock true
  have hlat : s.pinLat = .lo := h.rule.cellLatch (.inr (.inr (.inr hph)))
  obtain ⟨n, f, -, hf, hr, h2, rfl⟩ | ⟨n, d, -, -, -, hd, rfl⟩ | ⟨n, -, hf, -, rfl⟩ := execClkHi_cases e
  · exact .of_inCell (.inl rfl) hw ⟨f, n - 1, hf, rfl, countInRange_pred hr h2⟩ hlat (absurd rfl) (by simp)
  · obtain ⟨hslot, -, hconf, hmem⟩ := hw
    exact .of_inCell (.inl rfl) ⟨hslot, ⟨d, d, rfl, hd⟩, hconf, hmem⟩ ⟨.data, 8, rfl, rfl, by decide⟩ hlat
      (absurd rfl) (by simp)
  · exact .of_inLatchPulse (.inl rfl) hw hf rfl (hc.drivenLevel true) (fun _ => hlat) (by simp)

theorem execLatHi_keepsInv (h : s.Inv) (hph : s.ph = Phase.latHi) (e : execLatHi s = .next t) : t.Inv := by
  have hc : s.InCommand := h.inCommand (by simp [hph])
  obtain ⟨hfld, hcnt, hclk⟩ := h.rule.pulse (.inl hph)
  cases e
  exact .of_inLatchPulse (.inr (.inl rfl)) (hc.pinWrite .latch true) hfld hcnt hclk (by simp)
    (fun _ => hc.drivenLevel true)

theorem execLatHold_keepsInv (h : s.Inv) (hph : s.ph = Phase.latHold) (e : execLatHold s = .next t) : t.Inv := by
  have hc : s.InCommand := h.inCommand (by simp [hph])
  obtain ⟨hfld, hcnt, hclk⟩ := h.rule.pulse (.inr (.inl hph))
  cases e
  exact .of_inLatchPulse (.inr (.inr rfl)) hc hfld hcnt hclk (by simp) (fun _ => h.rule.pulseLatch (.inl hph))

theorem execLatLoEnd_keepsInv (h : s.Inv) (hph : s.ph = Phase.latLoEnd) (e : execLatLoEnd s = .next t) : t.Inv := by
  obtain ⟨hslot, -, -, hmem⟩ := h.inCommand (by simp [hph])
  cases e
  exact .of_idle rfl (by simp [hslot]) (hmem.pinWrite .latch false)

theorem SequencerMove.keepsInv (h : s.Inv) (m : SequencerMove s t) : t.Inv := by
  cases m with
  | idle _ _ e => cases e; exact h
  | accept _ hv e => exact execAccept_keepsInv h hv e
  | latLoStart hph e => exact execLatLoStart_keepsInv h hph e
  | clkLo hph e => exact execClkLo_keepsInv h hph e
  | datSet hph e => exact execDatSet_keepsInv h hph e
  | shift hph e => exact execShift_keepsInv h hph e
  | clkHi hph e => exact execClkHi_keepsInv h hph e
  | latHi hph e => exact execLatHi_keepsInv h hph e
  | latHold hph e => exact execLatHold_keepsInv h hph e
  | latLoEnd hph e => exact execLatLoEnd_keepsInv h hph e

/-! ### Reset, the host and whole turns -/

theorem resetAction_inv (h : s.Inv) : s.resetAction.Inv := .of_idle rfl (by simp) h.memWf

theorem sequencerStep_keepsInv {rst : Bool} (h : s.Inv) (e : sequencerStep rst s = .next t) : t.Inv := by
  cases rst with
  | true => cases e; exact resetAction_inv h
  | false => exact (sequencerStep_move e).keepsInv h

/-- The invariant says nothing of the host's program, its place in a call or the turns to come, and it only ever needs the
boot premise to hold. -/
theorem State.Inv.withHost (h : s.Inv) (program : List Command) (waiting configured : Bool) (turns : List Turn)
    (hconf : s.pinsConfigured = true → configured = true) :
    State.Inv { s with
      hostProgram := program, hostWaiting := waiting, pinsConfigured := configured, schedule := turns } where
  rule := { h.rule with }
  slotArgs := h.slotArgs
  working := h.working
  configured := fun hs => hconf (h.configured hs)
  clockLow := h.clockLow
  dataKnown := h.dataKnown
  latchLow := h.latchLow
  memRise := h.memRise
  memFall := h.memFall

theorem hostStep_keepsInv (h : s.Inv) (e : hostStep s = .next t) : t.Inv := by
  obtain ⟨-, he⟩ | ⟨c, _, hconf, -, hfree, -, he⟩ | ⟨_, _, -, -, -, -, he⟩ | ⟨-, -, he⟩ := hostStep_cases s
  · cases he.symm.trans e
    exact h.withHost _ _ _ _ fun _ => rfl
  · cases he.symm.trans e
    obtain ⟨-, hph⟩ := (slotFree_iff s).mp hfree
    exact .of_idle hph (fun _ => ⟨hconf, c.addr, c.data, rfl, rfl⟩) h.memWf
  · cases he.symm.trans e
    exact h.withHost _ _ _ _ id
  · cases he.symm.trans e
    exact h

theorem runTurn_keepsInv {turn : Turn} (h : s.Inv) (e : runTurn turn s = .next t) : t.Inv := by
  cases turn with
  | host => exact hostStep_keepsInv h e
  | sequencer rst => exact sequencerStep_keepsInv h e

end

/-- Settles O45: the turn is taken off the schedule, of which the invariant says nothing, and either agent's turn
keeps the invariant. -/
theorem everyStepKeepsTheInvariant : Obligations.EveryStepKeepsTheInvariant := by
  intro s t h e
  exact runTurn_keepsInv (h.withHost _ _ _ s.schedule.tail id) e

/-- Settles O44: at power-on the block is idle with an empty slot, and the receivers' memories are empty. -/
theorem launchMeetsTheInvariant : Obligations.LaunchMeetsTheInvariant := by
  intro program turns t
  exact .of_idle rfl (by simp [State.launch, State.reset]) ⟨rfl, rfl⟩

/-- The invariant holds of every reachable state. -/
theorem inv_of_reachable {s : State} (h : Reachable s) : s.Inv :=
  reachable_of_keeps (fun program turns t _ => launchMeetsTheInvariant program turns t) everyStepKeepsTheInvariant s h

/-- Settles O47: R30 is a part of the invariant. -/
theorem reachableStatesMeetRuleThirty : Obligations.ReachableStatesMeetRuleThirty := by
  intro s h
  exact (inv_of_reachable h).rule

end Sys2Proof.Machine

/-! SUPPORT. The command slot: who fills it and who empties it (R25, R73, R81). -/

namespace Sys2Proof.Machine

section
variable {s t : State}

/-- ACCEPT takes a waiting command at the cost of its slot, and no other micro-operation writes `cmd_valid` (R25, R81). -/
theorem SequencerMove.cmdValid (m : SequencerMove s t) :
    t.cmdValid = s.cmdValid ∨ (s.cmdValid = true ∧ t.cmdValid = false ∧ s.ph = Phase.idle ∧
      ∃ a d, s.cmdAddr = .val a ∧ s.cmdData = .val d ∧ t.trace = s.trace ++ [.accept a d]) := by
  cases m with
  | idle _ _ e => cases e; exact .inl rfl
  | accept hph hv e =>
    obtain ⟨a, d, ha, hd, rfl⟩ := execAccept_cases e
    exact .inr ⟨hv, rfl, hph, a, d, ha, hd, rfl⟩
  | latLoStart _ e => cases e; exact .inl rfl
  | clkLo _ e => cases e; exact .inl rfl
  | datSet _ e => obtain ⟨v, -, rfl⟩ := execDatSet_cases e; exact .inl rfl
  | shift _ e => obtain ⟨v, -, rfl⟩ := execShift_cases e; exact .inl rfl
  | clkHi _ e =>
    obtain ⟨_, _, -, -, -, -, rfl⟩ | ⟨_, _, -, -, -, -, rfl⟩ | ⟨_, -, -, -, rfl⟩ := execClkHi_cases e <;> exact .inl rfl
  | latHi _ e => cases e; exact .inl rfl
  | latHold _ e => cases e; exact .inl rfl
  | latLoEnd _ e => cases e; exact .inl rfl

/-- The host fills the slot with its current command, and only a free one; it empties none (R25, R73). -/
theorem hostStep_cmdValid (h : hostStep s = .next t) :
    t.cmdValid = s.cmdValid ∨ (s.slotFree = true ∧
      ∃ c rest, s.hostProgram = c :: rest ∧ t.cmdValid = true ∧ t.cmdAddr = .val c.addr ∧ t.cmdData = .val c.data) := by
  obtain ⟨-, e⟩ | ⟨c, rest, -, hp, hfree, -, e⟩ | ⟨_, _, -, -, -, -, e⟩ | ⟨-, -, e⟩ := hostStep_cases s
  · cases e.symm.trans h
    exact .inl rfl
  · cases e.symm.trans h
    exact .inr ⟨hfree, c, rest, hp, rfl, rfl, rfl⟩
  · cases e.symm.trans h
    exact .inl rfl
  · cases e.symm.trans h
    exact .inl rfl

/-- A turn that fills the slot is the host's, which finds it free and writes its current command (R25, R73). -/
theorem runTurn_fillsSlot {turn : Turn} (h : runTurn turn s = .next t) (hs : s.cmdValid = false)
    (ht : t.cmdValid = true) : turn = .host ∧ s.busy = false ∧
      ∃ c rest, s.hostProgram = c :: rest ∧ t.cmdAddr = .val c.addr ∧ t.cmdData = .val c.data := by
  match turn with
  | .host =>
    obtain hsame | ⟨hfree, c, rest, hp, -, ha, hd⟩ := hostStep_cmdValid h
    · simp [hsame, hs] at ht
    · obtain ⟨-, hph⟩ := (slotFree_iff s).mp hfree
      exact ⟨rfl, by simp [State.busy, hph], c, rest, hp, ha, hd⟩
  | .sequencer true => cases h; cases ht
  | .sequencer false =>
    obtain hsame | ⟨hv, -⟩ := (sequencerStep_move h).cmdValid
    · simp [hsame, hs] at ht
    · simp [hs] at hv

/-- A turn that empties the slot is a reset, or the ACCEPT that takes the waiting command (R25, R81). -/
theorem runTurn_emptiesSlot {turn : Turn} (h : runTurn turn s = .next t) (hs : s.cmdValid = true)
    (ht : t.cmdValid = false) : turn = .sequencer true ∨ (turn = .sequencer false ∧ s.busy = false ∧
      ∃ a d, s.cmdAddr = .val a ∧ s.cmdData = .val d ∧ t.trace = s.trace ++ [.accept a d]) := by
  match turn with
  | .host =>
    obtain hsame | ⟨-, _, _, -, hv, -, -⟩ := hostStep_cmdValid h
    · simp [hsame, hs] at ht
    · simp [hv] at ht
  | .sequencer true => exact .inl rfl
  | .sequencer false =>
    obtain hsame | ⟨-, -, hph, haccept⟩ := (sequencerStep_move h).cmdValid
    · simp [hsame, hs] at ht
    · exact .inr ⟨rfl, by simp [State.busy, hph], haccept⟩

end

/-- Settles O27: a step is the turn that is due, which alone fills or empties the slot. -/
theorem slotFilledByHostTakenByAccept : Obligations.SlotFilledByHostTakenByAccept := by
  intro s t h
  have hturn : runTurn s.nextTurn s.turnTaken = .next t := h
  exact ⟨runTurn_fillsSlot (s := s.turnTaken) hturn, runTurn_emptiesSlot (s := s.turnTaken) hturn⟩

end Sys2Proof.Machine

/-! SUPPORT. Which pin and which working register an operation may write, and how many pin writes it makes (R14, R79). -/

namespace Sys2Proof.Machine

/-- The pin that an operation writes (R14, R22). -/
def pinOf : Instr → Option Pin
  | .clkLo | .clkHi => some .clock
  | .datSet => some .data
  | .latLoStart | .latHi | .latLoEnd => some .latch
  | .send _ _ | .idle | .accept | .shift | .latHold => none

theorem pinOf_eq_clock {i : Instr} : pinOf i = some .clock ↔ i = .clkLo ∨ i = .clkHi := by
  cases i <;> simp [pinOf]
theorem pinOf_eq_data {i : Instr} : pinOf i = some .data ↔ i = .datSet := by cases i <;> simp [pinOf]
theorem pinOf_eq_latch {i : Instr} : pinOf i = some .latch ↔ i = .latLoStart ∨ i = .latHi ∨ i = .latLoEnd := by
  cases i <;> simp [pinOf]

/-- Whether an event is a pin write. -/
def Event.isWrite : Event → Bool
  | .write _ _ => true
  | .accept _ _ | .hold _ | .done | .reset => false

/-- An operation without a pin leaves the levels and writes none; one with a pin leaves the levels of that pin's write, which
is its only one (R23, R79). -/
def State.Drives (s : State) (pin : Option Pin) (t : State) : Prop :=
  match pin with
  | none => SamePins s t ∧ ∃ es, t.trace = s.trace ++ es ∧ es.filter Event.isWrite = []
  | some p => ∃ b es, SamePins (s.pinWrite p b) t ∧ t.trace = (s.pinWrite p b).trace ++ es ∧ es.filter Event.isWrite = []

section
variable {s t : State}

theorem SamePins.pin (h : SamePins s t) (p : Pin) : t.pin p = s.pin p := by
  obtain ⟨hclk, hdat, hlat⟩ := h
  cases p <;> assumption

/-- A write of one pin leaves the level of every other (R23). -/
theorem pinWrite_pin_ne {q p : Pin} (b : Bool) (h : q ≠ p) : (s.pinWrite q b).pin p = s.pin p := by
  cases q <;> cases p <;> simp_all [State.pin]

theorem State.Drives.pin_ne {pin : Option Pin} (h : s.Drives pin t) {p : Pin} (hp : pin ≠ some p) : t.pin p = s.pin p := by
  cases pin with
  | none =>
    obtain ⟨hpins, -⟩ := h
    exact hpins.pin p
  | some q =>
    obtain ⟨b, -, hpins, -⟩ := h
    exact (hpins.pin p).trans (pinWrite_pin_ne b fun hq => hp (congrArg some hq))

theorem State.Drives.oneWrite {pin : Option Pin} (h : s.Drives pin t) :
    ∃ es, t.trace = s.trace ++ es ∧ (es.filter Event.isWrite).length ≤ 1 := by
  cases pin with
  | none =>
    obtain ⟨-, es, htrace, hes⟩ := h
    exact ⟨es, htrace, by simp [hes]⟩
  | some p =>
    obtain ⟨b, es, -, htrace, hes⟩ := h
    exact ⟨.write p b :: es, by simpa using htrace, by simp [List.filter_cons, Event.isWrite, hes]⟩

theorem State.Drives.of_same (hpins : SamePins s t) (htrace : t.trace = s.trace) : s.Drives none t :=
  ⟨hpins, [], by simp [htrace], rfl⟩

theorem State.Drives.of_pinWrite (p : Pin) (b : Bool) (hpins : SamePins (s.pinWrite p b) t)
    (htrace : t.trace = (s.pinWrite p b).trace) : s.Drives (some p) t :=
  ⟨b, [], hpins, by simp [htrace], rfl⟩

/-- What each operation drives (R80 to R89; the host's move drives nothing, R71). -/
theorem exec_drives {i : Instr} (h : exec i s = .next t) : s.Drives (pinOf i) t := by
  cases i with
  | send a d =>
    obtain ⟨-, -, rfl⟩ | ⟨-, -, rfl⟩ | ⟨-, rfl⟩ := execSend_cases h <;> exact .of_same ⟨rfl, rfl, rfl⟩ rfl
  | idle => cases h; exact .of_same ⟨rfl, rfl, rfl⟩ rfl
  | accept =>
    obtain ⟨a, d, -, -, rfl⟩ := execAccept_cases h
    exact ⟨⟨rfl, rfl, rfl⟩, [.accept a d], rfl, rfl⟩
  | latLoStart => cases h; exact .of_pinWrite .latch false ⟨rfl, rfl, rfl⟩ rfl
  | clkLo => cases h; exact .of_pinWrite .clock false ⟨rfl, rfl, rfl⟩ rfl
  | datSet =>
    obtain ⟨v, -, rfl⟩ := execDatSet_cases h
    exact .of_pinWrite .data (currentLsb v) ⟨rfl, rfl, rfl⟩ rfl
  | shift =>
    obtain ⟨v, -, rfl⟩ := execShift_cases h
    exact .of_same ⟨rfl, rfl, rfl⟩ rfl
  | clkHi =>
    obtain ⟨_, _, -, -, -, -, rfl⟩ | ⟨_, _, -, -, -, -, rfl⟩ | ⟨_, -, -, -, rfl⟩ := execClkHi_cases h <;>
      exact .of_pinWrite .clock true ⟨rfl, rfl, rfl⟩ rfl
  | latHi => cases h; exact .of_pinWrite .latch true ⟨rfl, rfl, rfl⟩ rfl
  | latHold => cases h; exact ⟨⟨rfl, rfl, rfl⟩, [.hold s.tLatchHold], rfl, rfl⟩
  | latLoEnd => cases h; exact ⟨false, [.done], ⟨rfl, rfl, rfl⟩, rfl, rfl⟩

/-- The working registers of the operations that write none of them; ACCEPT, SHIFT and CLK_HI are the others (R14). -/
theorem exec_working_same {i : Instr} (h : exec i s = .next t) (ha : i ≠ .accept) (hs : i ≠ .shift) (hc : i ≠ .clkHi) :
    SameWorking s t := by
  cases i with
  | send a d =>
    obtain ⟨-, -, rfl⟩ | ⟨-, -, rfl⟩ | ⟨-, rfl⟩ := execSend_cases h <;> exact ⟨rfl, rfl, rfl, rfl⟩
  | datSet =>
    obtain ⟨v, -, rfl⟩ := execDatSet_cases h
    exact ⟨rfl, rfl, rfl, rfl⟩
  | accept => exact absurd rfl ha
  | shift => exact absurd rfl hs
  | clkHi => exact absurd rfl hc
  | idle | latLoStart | clkLo | latHi | latHold | latLoEnd => cases h; exact ⟨rfl, rfl, rfl, rfl⟩

theorem execShift_frame (h : execShift s = .next t) : t.dreg = s.dreg ∧ t.cnt = s.cnt ∧ t.fld = s.fld := by
  obtain ⟨v, -, rfl⟩ := execShift_cases h
  exact ⟨rfl, rfl, rfl⟩

theorem execClkHi_dreg (h : execClkHi s = .next t) : t.dreg = s.dreg := by
  obtain ⟨_, _, -, -, -, -, rfl⟩ | ⟨_, _, -, -, -, -, rfl⟩ | ⟨_, -, -, -, rfl⟩ := execClkHi_cases h <;> rfl

theorem exec_dreg {i : Instr} (h : exec i s = .next t) (ha : i ≠ .accept) : t.dreg = s.dreg := by
  by_cases hs : i = .shift
  · subst hs
    obtain ⟨hdreg, -⟩ := execShift_frame h
    exact hdreg
  by_cases hc : i = .clkHi
  · subst hc
    exact execClkHi_dreg h
  obtain ⟨-, hdreg, -⟩ := exec_working_same h ha hs hc
  exact hdreg

theorem exec_cnt_fld {i : Instr} (h : exec i s = .next t) (ha : i ≠ .accept) (hc : i ≠ .clkHi) :
    t.cnt = s.cnt ∧ t.fld = s.fld := by
  by_cases hs : i = .shift
  · subst hs
    obtain ⟨-, hcount⟩ := execShift_frame h
    exact hcount
  obtain ⟨-, -, hcount⟩ := exec_working_same h ha hs hc
  exact hcount

end

/-- Settles O51, from the pin that each operation drives and the working registers it leaves. -/
theorem eachPinAndRegisterHasItsWriters : Obligations.EachPinAndRegisterHasItsWriters := by
  intro i s t h
  have hdrives : s.Drives (pinOf i) t := exec_drives h
  refine ⟨fun hlo hhi => ?_, fun hdat => ?_, fun hstart hhi hend => ?_, fun ha hs hc => ?_, exec_dreg h, exec_cnt_fld h,
    hdrives.oneWrite⟩
  · exact hdrives.pin_ne (p := .clock) (by simp [pinOf_eq_clock, hlo, hhi])
  · exact hdrives.pin_ne (p := .data) (by simp [pinOf_eq_data, hdat])
  · exact hdrives.pin_ne (p := .latch) (by simp [pinOf_eq_latch, hstart, hhi, hend])
  · exact (exec_working_same h ha hs hc).1

end Sys2Proof.Machine

/-! SUPPORT. An operation's effect on the block, the trace and the host without the wires and the receivers (R22, R43). -/

namespace Sys2Proof.Machine

/-- `s` with other levels and other receivers. -/
def State.rewired (s : State) (clk dat lat : Level) (rise fall : Receiver) : State :=
  { s with pinClk := clk, pinDat := dat, pinLat := lat, recvRise := rise, recvFall := fall }

/-- The block, the trace and the host of `s`: its wires and receivers are put at fixed values. -/
def State.unwired (s : State) : State := s.rewired .x .x .x Receiver.initial Receiver.initial

/-- States that agree but for their wires and receivers have the same block, trace and host. -/
theorem State.same_of_unwired {t u : State} (h : u.unwired = t.unwired) :
    u.ph = t.ph ∧ SameWorking t u ∧ SameSlot t u ∧ u.trace = t.trace ∧ SameHost t u := by
  obtain ⟨⟩ := t
  obtain ⟨⟩ := u
  simp_all [State.unwired, State.rewired, SameWorking, SameSlot, SameHost]

/-- An operation that answers a next state answers one for other wires and receivers, with the same block, trace and host:
what it reads, and so the case it is in, is no wire's (R22, R43, R92). -/
theorem exec_rewired {i : Instr} {s t : State} (h : exec i s = .next t) (clk dat lat : Level) (rise fall : Receiver) :
    ∃ u, exec i (s.rewired clk dat lat rise fall) = .next u ∧ u.unwired = t.unwired := by
  cases i with
  | send a d =>
    obtain ⟨hfree, hw, rfl⟩ | ⟨hfree, hw, rfl⟩ | ⟨hfree, rfl⟩ := execSend_cases h
    · exact ⟨_, execSend_post hfree hw, rfl⟩
    · exact ⟨_, execSend_return hfree hw, rfl⟩
    · exact ⟨_, execSend_wait hfree, rfl⟩
  | accept =>
    obtain ⟨a, d, ha, hd, rfl⟩ := execAccept_cases h
    exact ⟨_, execAccept_eq ha hd, rfl⟩
  | datSet =>
    obtain ⟨v, hv, rfl⟩ := execDatSet_cases h
    exact ⟨_, execDatSet_eq hv, rfl⟩
  | shift =>
    obtain ⟨v, hv, rfl⟩ := execShift_cases h
    exact ⟨_, execShift_eq hv, rfl⟩
  | clkHi =>
    obtain ⟨n, f, hn, hf, hr, h2, rfl⟩ | ⟨n, d, hn, hf, h1, hd, rfl⟩ | ⟨n, hn, hf, h1, rfl⟩ := execClkHi_cases h
    · exact ⟨_, execClkHi_within hn hf hr h2, rfl⟩
    · exact ⟨_, execClkHi_switch hn hf h1 hd, rfl⟩
    · exact ⟨_, execClkHi_end hn hf h1, rfl⟩
  | idle | latLoStart | clkLo | latHi | latHold | latLoEnd => cases h; exact ⟨_, rfl, rfl⟩

/-- Settles O52: the operation's answer for the other wires agrees with the first one but for wires and receivers. -/
theorem noOperationReadsAPinOrTheReceiver : Obligations.NoOperationReadsAPinOrTheReceiver := by
  intro i s t clk dat lat rise fall h
  obtain ⟨u, hu, hunwired⟩ := exec_rewired h clk dat lat rise fall
  exact ⟨u, hu, State.same_of_unwired hunwired⟩

end Sys2Proof.Machine

/-! SUPPORT. The receivers and levels that the state carries follow its trace (R40, R46): whatever a turn does to them is
what an observer makes of the events that it appends. -/

namespace Sys2Proof.Machine

/-- `t` comes from `s` by the events `es`: they are appended to the trace, and levels and receivers are what an observer
of the wires makes of them. -/
def State.Shows (s : State) (es : List Event) (t : State) : Prop :=
  t.trace = s.trace ++ es ∧ ∀ e, t.observed e = (s.observed e).events e es

section
variable {s t : State}

theorem State.Shows.of_same (ht : t.trace = s.trace) (ho : ∀ e, t.observed e = s.observed e) : s.Shows [] t :=
  ⟨by simp [ht], ho⟩

theorem State.Shows.of_event (ev : Event) (ht : t.trace = s.trace ++ [ev])
    (ho : ∀ e, t.observed e = Observation.event e (s.observed e) ev) : s.Shows [ev] t := ⟨ht, ho⟩

/-- On output pins a pin write shows its event (R46). -/
theorem State.Shows.of_pinWrite (hconf : s.pinsConfigured = true) (p : Pin) (b : Bool)
    (ht : t.trace = (s.pinWrite p b).trace) (ho : ∀ e, t.observed e = (s.pinWrite p b).observed e) :
    s.Shows [.write p b] t :=
  .of_event (.write p b) ht fun e => (ho e).trans (pinWrite_observed s p b e hconf)

theorem State.Observes.iff_forall : s.Observes ↔ ∀ e, s.observed e = observe e s.trace :=
  ⟨fun h e => match e with
    | .rise => h.1
    | .fall => h.2, fun h => ⟨h .rise, h .fall⟩⟩

/-- Events shown keep the state the observation of its trace (R40). -/
theorem State.Observes.shows {es : List Event} (h : s.Observes) (hs : s.Shows es t) : t.Observes := by
  rw [State.Observes.iff_forall] at h ⊢
  obtain ⟨htrace, hobs⟩ := hs
  intro e
  rw [hobs e, h e, htrace, observe_append]

/-- On output pins every operation shows the events that it appends (R80 to R89). -/
theorem exec_shows {i : Instr} (hconf : s.pinsConfigured = true) (h : exec i s = .next t) : ∃ es, s.Shows es t := by
  cases i with
  | send a d =>
    obtain ⟨-, -, rfl⟩ | ⟨-, -, rfl⟩ | ⟨-, rfl⟩ := execSend_cases h <;> exact ⟨[], .of_same rfl fun _ => rfl⟩
  | idle => cases h; exact ⟨[], .of_same rfl fun _ => rfl⟩
  | accept =>
    obtain ⟨a, d, -, -, rfl⟩ := execAccept_cases h
    exact ⟨_, .of_event (.accept a d) rfl fun _ => rfl⟩
  | latLoStart => cases h; exact ⟨_, .of_pinWrite hconf .latch false rfl fun _ => rfl⟩
  | clkLo => cases h; exact ⟨_, .of_pinWrite hconf .clock false rfl fun _ => rfl⟩
  | datSet =>
    obtain ⟨v, -, rfl⟩ := execDatSet_cases h
    exact ⟨_, .of_pinWrite hconf .data (currentLsb v) rfl fun _ => rfl⟩
  | shift =>
    obtain ⟨v, -, rfl⟩ := execShift_cases h
    exact ⟨[], .of_same rfl fun _ => rfl⟩
  | clkHi =>
    obtain ⟨_, _, -, -, -, -, rfl⟩ | ⟨_, _, -, -, -, -, rfl⟩ | ⟨_, -, -, -, rfl⟩ := execClkHi_cases h <;>
      exact ⟨_, .of_pinWrite hconf .clock true rfl fun _ => rfl⟩
  | latHi => cases h; exact ⟨_, .of_pinWrite hconf .latch true rfl fun _ => rfl⟩
  | latHold => cases h; exact ⟨_, .of_event (.hold s.tLatchHold) rfl fun _ => rfl⟩
  | latLoEnd =>
    cases h
    exact ⟨[.write .latch false, .done], by simp, fun e => pinWrite_observed s .latch false e hconf⟩

/-- Before the boot premise holds a sequencer step is a reset or IDLE, so no pin is written then (R115, R116). -/
theorem sequencerStep_shows {rst : Bool} (hinv : s.Inv) (h : sequencerStep rst s = .next t) : ∃ es, s.Shows es t := by
  cases rst with
  | true => cases h; exact ⟨_, .of_event .reset rfl fun e => by cases e <;> rfl⟩
  | false =>
    by_cases hconf : s.pinsConfigured = true
    · obtain ⟨i, -, hi⟩ := sequencerStep_next h
      exact exec_shows hconf hi
    · have hidle : s.ph = Phase.idle := by_contra fun hph => hconf (hinv.configured (.inl hph))
      have hslot : s.cmdValid = false := by simpa using fun hv => hconf (hinv.configured (.inr hv))
      cases (sequencerStep_idle hidle hslot).symm.trans h
      exact ⟨[], .of_same rfl fun _ => rfl⟩

/-- A move of the host is nothing to an observer of the wires (R8). -/
theorem hostStep_shows (h : hostStep s = .next t) : s.Shows [] t := by
  obtain ⟨-, e⟩ | ⟨c, _, -, -, -, -, e⟩ | ⟨_, _, -, -, -, -, e⟩ | ⟨-, -, e⟩ := hostStep_cases s <;>
    (cases e.symm.trans h; exact .of_same rfl fun _ => rfl)

theorem runTurn_shows {turn : Turn} (hinv : s.Inv) (h : runTurn turn s = .next t) : ∃ es, s.Shows es t := by
  cases turn with
  | host => exact ⟨[], hostStep_shows h⟩
  | sequencer rst => exact sequencerStep_shows hinv h

end

/-- Taking the turn off the schedule keeps the invariant, which says nothing of the schedule. -/
theorem State.Inv.turnTaken {s : State} (h : s.Inv) : s.turnTaken.Inv := h.withHost _ _ _ s.schedule.tail id

/-- Settles O40: the trace at power-on is the one reset, and the turn of a step shows the events that it appends. -/
theorem carriedReceiversObserveTheTrace : Obligations.CarriedReceiversObserveTheTrace := by
  constructor
  · intro program turns t
    exact ⟨rfl, rfl⟩
  · intro s t hinv hobs h
    obtain ⟨es, hshows⟩ := runTurn_shows hinv.turnTaken h
    have hstart : s.turnTaken.Observes := hobs
    exact hstart.shows hshows

end Sys2Proof.Machine

/-! SUPPORT. No DATA write in the sampling window of R51. -/

namespace Sys2Proof.Machine

theorem sampleWindow_append (w : Bool) (es es' : List Event) :
    sampleWindow w (es ++ es') = sampleWindow (sampleWindow w es) es' := by
  simp [sampleWindow, List.foldl_append]

theorem dataStable_append (w : Bool) (es es' : List Event) :
    dataStable w (es ++ es') = (dataStable w es && dataStable (sampleWindow w es) es') := by
  induction es generalizing w with
  | nil => rfl
  | cons ev rest ih => simp [dataStable, ih, sampleWindow, Bool.and_assoc]

/-- R51 on the trace so far, and the window closed when a DATA write is due: what every step keeps. -/
def State.DataSafe (s : State) : Prop :=
  dataStable false s.trace = true ∧ (s.ph = Phase.datSet → sampleWindow false s.trace = false)

section
variable {s t : State}

/-- Events without a DATA write keep R51; they are to close the window if they lead to DAT_SET. -/
theorem State.DataSafe.append (h : s.DataSafe) (es : List Event) (ht : t.trace = s.trace ++ es)
    (hes : ∀ w, dataStable w es = true) (hph : t.ph = Phase.datSet → ∀ w, sampleWindow w es = false) : t.DataSafe := by
  obtain ⟨hstable, -⟩ := h
  unfold State.DataSafe
  rw [ht, dataStable_append, sampleWindow_append]
  exact ⟨by simp [hstable, hes], fun hdat => hph hdat _⟩

theorem State.DataSafe.of_same (h : s.DataSafe) (ht : t.trace = s.trace) (hph : t.ph = s.ph) : t.DataSafe := by
  unfold State.DataSafe
  rwa [ht, hph]

/-- DAT_SET finds the window closed. -/
theorem execDatSet_dataSafe (h : s.DataSafe) (hph : s.ph = Phase.datSet) (e : execDatSet s = .next t) : t.DataSafe := by
  obtain ⟨hstable, hclosed⟩ := h
  obtain ⟨v, -, rfl⟩ := execDatSet_cases e
  refine ⟨?_, by simp⟩
  simp [dataStable_append, hstable, hclosed hph, dataStable]

/-- CLK_LO, which alone leads to DAT_SET, closes the window (R83, R90). -/
theorem SequencerMove.dataSafe (h : s.DataSafe) (m : SequencerMove s t) : t.DataSafe := by
  cases m with
  | idle _ _ e => cases e; exact h
  | accept _ _ e =>
    obtain ⟨a, d, -, -, rfl⟩ := execAccept_cases e
    exact h.append [.accept a d] rfl (fun _ => rfl) (by simp)
  | latLoStart _ e => cases e; exact h.append [.write .latch false] rfl (fun _ => rfl) (by simp)
  | clkLo _ e => cases e; exact h.append [.write .clock false] rfl (fun _ => rfl) fun _ _ => rfl
  | datSet hph e => exact execDatSet_dataSafe h hph e
  | shift _ e =>
    obtain ⟨v, -, rfl⟩ := execShift_cases e
    exact h.append [] (by simp) (fun _ => rfl) (by simp)
  | clkHi _ e =>
    obtain ⟨_, _, -, -, -, -, rfl⟩ | ⟨_, _, -, -, -, -, rfl⟩ | ⟨_, -, -, -, rfl⟩ := execClkHi_cases e <;>
      exact h.append [.write .clock true] rfl (fun _ => rfl) (by simp)
  | latHi _ e => cases e; exact h.append [.write .latch true] rfl (fun _ => rfl) (by simp)
  | latHold _ e => cases e; exact h.append [.hold s.tLatchHold] rfl (fun _ => rfl) (by simp)
  | latLoEnd _ e => cases e; exact h.append [.write .latch false, .done] (by simp) (fun _ => rfl) (by simp)

theorem hostStep_dataSafe (h : s.DataSafe) (e : hostStep s = .next t) : t.DataSafe := by
  obtain ⟨-, he⟩ | ⟨c, _, -, -, -, -, he⟩ | ⟨_, _, -, -, -, -, he⟩ | ⟨-, -, he⟩ := hostStep_cases s <;>
    (cases he.symm.trans e; exact h.of_same rfl rfl)

theorem runTurn_dataSafe {turn : Turn} (h : s.DataSafe) (e : runTurn turn s = .next t) : t.DataSafe := by
  match turn with
  | .host => exact hostStep_dataSafe h e
  | .sequencer true => cases e; exact h.append [.reset] rfl (fun _ => rfl) (by simp)
  | .sequencer false => exact (sequencerStep_move e).dataSafe h

end

/-- Settles O54, by induction over what is reachable. -/
theorem dataStableWhileClockHigh : Obligations.DataStableWhileClockHigh := by
  intro s hs
  have hsafe : s.DataSafe :=
    reachable_of_keeps (P := State.DataSafe) (fun _ _ _ _ => ⟨rfl, by simp [State.launch, State.reset]⟩)
      (fun s t h e => runTurn_dataSafe (s := s.turnTaken) h e) s hs
  obtain ⟨hstable, -⟩ := hsafe
  exact hstable

end Sys2Proof.Machine

/-! SUPPORT. The receivers of the two commit edges on output pins, step by step (R40, R41). -/

namespace Sys2Proof.Machine

/-- With no sample held a LATCH write does nothing, whatever edge it is (R40). -/
theorem Receiver.onLatch_nil {r : Receiver} (h : r.samples = []) (edge : Seen) : r.onLatch edge = r := by
  cases edge with
  | yes =>
    obtain ⟨_, _⟩ := r
    cases h
    rfl
  | no => rfl
  | maybe => exact r.onLatch_maybe_nil h

/-- R41, in the form that every step but a reset keeps: in the latch pulse after LAT_HI one receiver has committed what
the other is about to commit, elsewhere they are the same, and between commands they hold no sample. -/
structure State.EdgesAgree (s : State) : Prop where
  pulse : s.ph = Phase.latHold ∨ s.ph = Phase.latLoEnd → s.recvRise = s.recvFall.onLatch .yes
  outside : s.ph ≠ Phase.latHold → s.ph ≠ Phase.latLoEnd → s.recvRise = s.recvFall
  noSamples : s.ph = Phase.idle ∨ s.ph = Phase.latLoStart → s.recvFall.samples = []

namespace State.EdgesAgree

section
variable {s t : State}

/-- Between commands: the receivers are the same and hold no sample. -/
theorem of_rest (hph : t.ph = Phase.idle ∨ t.ph = Phase.latLoStart) (hsame : t.recvRise = t.recvFall)
    (hnil : t.recvFall.samples = []) : t.EdgesAgree where
  pulse := by obtain h | h := hph <;> simp [h]
  outside := fun _ _ => hsame
  noSamples := fun _ => hnil

/-- In a bit cell and before LAT_HI. -/
theorem of_frame (hph : inCell t.ph ∨ t.ph = Phase.latHi) (hsame : t.recvRise = t.recvFall) : t.EdgesAgree where
  pulse := by obtain (h | h | h | h) | h := hph <;> simp [h]
  outside := fun _ _ => hsame
  noSamples := by obtain (h | h | h | h) | h := hph <;> simp [h]

theorem of_pulse (hph : t.ph = Phase.latHold ∨ t.ph = Phase.latLoEnd) (hcommit : t.recvRise = t.recvFall.onLatch .yes) :
    t.EdgesAgree where
  pulse := fun _ => hcommit
  outside := fun h h' => (hph.elim h h').elim
  noSamples := by obtain h | h := hph <;> simp [h]

theorem of_same (h : s.EdgesAgree) (hph : t.ph = s.ph) (hr : t.recvRise = s.recvRise) (hf : t.recvFall = s.recvFall) :
    t.EdgesAgree where
  pulse := by rw [hph, hr, hf]; exact h.pulse
  outside := by rw [hph, hr, hf]; exact h.outside
  noSamples := by rw [hph, hf]; exact h.noSamples

theorem same_of_frame (h : s.EdgesAgree) (hph : inCell s.ph ∨ s.ph = Phase.latHi) : s.recvRise = s.recvFall := by
  refine h.outside ?_ ?_ <;> (obtain (h | h | h | h) | h := hph <;> simp [h])

theorem rest (h : s.EdgesAgree) (hph : s.ph = Phase.idle ∨ s.ph = Phase.latLoStart) :
    s.recvRise = s.recvFall ∧ s.recvFall.samples = [] := by
  refine ⟨h.outside ?_ ?_, h.noSamples hph⟩ <;> (obtain h | h := hph <;> simp [h])

/-- A CLOCK write is the same to both receivers (R39). -/
theorem of_clockWrite {b : Bool} (hsame : s.recvRise = s.recvFall) (hph : inCell t.ph ∨ t.ph = Phase.latHi)
    (hr : t.recvRise = (s.pinWrite .clock b).recvRise) (hf : t.recvFall = (s.pinWrite .clock b).recvFall) :
    t.EdgesAgree :=
  .of_frame hph (by rw [hr, hf, pinWrite_clock_recvRise, pinWrite_clock_recvFall, hsame])

end

end State.EdgesAgree

section
variable {s t : State}

/-- LATCH low before the frame finds no sample in either receiver. -/
theorem execLatLoStart_edgesAgree (h : s.EdgesAgree) (hph : s.ph = Phase.latLoStart) (e : execLatLoStart s = .next t) :
    t.EdgesAgree := by
  obtain ⟨hsame, hnil⟩ := h.rest (.inr hph)
  cases e
  refine .of_frame (.inl (.inl rfl)) ?_
  simp [hsame, Receiver.onLatch_nil hnil]

theorem execClkHi_edgesAgree (h : s.EdgesAgree) (hph : s.ph = Phase.clkHi) (e : execClkHi s = .next t) :
    t.EdgesAgree := by
  have hsame : s.recvRise = s.recvFall := h.same_of_frame (.inl (.inr (.inr (.inr hph))))
  obtain ⟨_, _, -, -, -, -, rfl⟩ | ⟨_, _, -, -, -, -, rfl⟩ | ⟨_, -, -, -, rfl⟩ := execClkHi_cases e
  · exact .of_clockWrite hsame (.inl (.inl rfl)) rfl rfl
  · exact .of_clockWrite hsame (.inl (.inl rfl)) rfl rfl
  · exact .of_clockWrite hsame (.inr rfl) rfl rfl

/-- LAT_HI is a rising edge (R87): the receiver of that kind commits. -/
theorem execLatHi_edgesAgree (hinv : s.Inv) (h : s.EdgesAgree) (hph : s.ph = Phase.latHi)
    (e : execLatHi s = .next t) : t.EdgesAgree := by
  have hdriven : s.drivenLevel true = .hi := (hinv.inCommand (by simp [hph])).drivenLevel true
  have hsame : s.recvRise = s.recvFall := h.same_of_frame (.inr hph)
  cases e
  refine .of_pulse (.inl rfl) ?_
  simp [hdriven, hinv.latchLow hph, hsame]

/-- LAT_LO_END is a falling edge (R89): the other receiver commits the same. -/
theorem execLatLoEnd_edgesAgree (hinv : s.Inv) (h : s.EdgesAgree) (hph : s.ph = Phase.latLoEnd)
    (e : execLatLoEnd s = .next t) : t.EdgesAgree := by
  have hdriven : s.drivenLevel false = .lo := (hinv.inCommand (by simp [hph])).drivenLevel false
  have hhigh : s.pinLat = .hi := hinv.rule.pulseLatch (.inr hph)
  have hcommit : s.recvRise = s.recvFall.onLatch .yes := h.pulse (.inr hph)
  cases e
  refine .of_rest (.inl rfl) ?_ ?_
  · simp [hdriven, hhigh, hcommit]
  · simp [hdriven, hhigh]

theorem SequencerMove.edgesAgree (hinv : s.Inv) (h : s.EdgesAgree) (m : SequencerMove s t) : t.EdgesAgree := by
  cases m with
  | idle _ _ e => cases e; exact h
  | accept hph _ e =>
    obtain ⟨hsame, hnil⟩ := h.rest (.inl hph)
    obtain ⟨a, d, -, -, rfl⟩ := execAccept_cases e
    exact .of_rest (.inr rfl) hsame hnil
  | latLoStart hph e => exact execLatLoStart_edgesAgree h hph e
  | clkLo hph e =>
    cases e
    exact .of_clockWrite (h.same_of_frame (.inl (.inl hph))) (.inl (.inr (.inl rfl))) rfl rfl
  | datSet hph e =>
    obtain ⟨v, -, rfl⟩ := execDatSet_cases e
    exact .of_frame (.inl (.inr (.inr (.inl rfl)))) (h.same_of_frame (.inl (.inr (.inl hph))))
  | shift hph e =>
    obtain ⟨v, -, rfl⟩ := execShift_cases e
    exact .of_frame (.inl (.inr (.inr (.inr rfl)))) (h.same_of_frame (.inl (.inr (.inr (.inl hph)))))
  | clkHi hph e => exact execClkHi_edgesAgree h hph e
  | latHi hph e => exact execLatHi_edgesAgree hinv h hph e
  | latHold hph e => cases e; exact .of_pulse (.inr rfl) (h.pulse (.inl hph))
  | latLoEnd hph e => exact execLatLoEnd_edgesAgree hinv h hph e

theorem hostStep_edgesAgree (h : s.EdgesAgree) (e : hostStep s = .next t) : t.EdgesAgree := by
  obtain ⟨-, he⟩ | ⟨c, _, -, -, -, -, he⟩ | ⟨_, _, -, -, -, -, he⟩ | ⟨-, -, he⟩ := hostStep_cases s <;>
    (cases he.symm.trans e; exact h.of_same rfl rfl rfl)

theorem runTurn_edgesAgree {turn : Turn} (hreset : turn ≠ .sequencer true) (hinv : s.Inv) (h : s.EdgesAgree)
    (e : runTurn turn s = .next t) : t.EdgesAgree := by
  match turn with
  | .host => exact hostStep_edgesAgree h e
  | .sequencer true => exact absurd rfl hreset
  | .sequencer false => exact (sequencerStep_move e).edgesAgree hinv h

/-! ### Runs without a reset -/

theorem exec_schedule {i : Instr} (h : exec i s = .next t) : t.schedule = s.schedule := by
  cases i with
  | send a d => obtain ⟨-, -, rfl⟩ | ⟨-, -, rfl⟩ | ⟨-, rfl⟩ := execSend_cases h <;> rfl
  | accept => obtain ⟨a, d, -, -, rfl⟩ := execAccept_cases h; rfl
  | datSet => obtain ⟨v, -, rfl⟩ := execDatSet_cases h; rfl
  | shift => obtain ⟨v, -, rfl⟩ := execShift_cases h; rfl
  | clkHi =>
    obtain ⟨_, _, -, -, -, -, rfl⟩ | ⟨_, _, -, -, -, -, rfl⟩ | ⟨_, -, -, -, rfl⟩ := execClkHi_cases h <;> rfl
  | idle | latLoStart | clkLo | latHi | latHold | latLoEnd => cases h; rfl

/-- No turn writes the turns to come (log 2). -/
theorem runTurn_schedule {turn : Turn} (h : runTurn turn s = .next t) : t.schedule = s.schedule := by
  match turn with
  | .host =>
    obtain ⟨-, e⟩ | ⟨c, _, -, -, -, -, e⟩ | ⟨_, _, -, -, -, -, e⟩ | ⟨-, -, e⟩ := hostStep_cases s <;>
      (cases e.symm.trans h; rfl)
  | .sequencer true => cases h; rfl
  | .sequencer false =>
    obtain ⟨i, -, hi⟩ := sequencerStep_next h
    exact exec_schedule hi

/-- No reset is among the turns to come. -/
def State.NoResetDue (s : State) : Prop := ∀ x ∈ s.schedule, x ≠ Turn.sequencer true

theorem State.NoResetDue.step (h : s.NoResetDue) (e : step s = .next t) : t.NoResetDue := by
  have hsched : t.schedule = s.schedule.tail := runTurn_schedule e
  intro x hx
  rw [hsched] at hx
  exact h x (List.mem_of_mem_tail hx)

/-- The default turn is no reset either. -/
theorem State.NoResetDue.nextTurn_ne (h : s.NoResetDue) : s.nextTurn ≠ .sequencer true := by
  cases hsched : s.schedule with
  | nil =>
    simp only [State.nextTurn, hsched, State.defaultTurn]
    split <;> simp
  | cons x rest =>
    have hx : x ≠ .sequencer true := h x (by simp [hsched])
    simpa [State.nextTurn, hsched] using hx

theorem State.EdgesAgree.step (hinv : s.Inv) (hnoReset : s.NoResetDue) (h : s.EdgesAgree) (e : step s = .next t) :
    t.EdgesAgree :=
  runTurn_edgesAgree (s := s.turnTaken) hnoReset.nextTurn_ne hinv.turnTaken (h.of_same rfl rfl rfl) e

end

/-- Settles O41: without a reset every step keeps the form of R41 above, beside the invariant. -/
theorem bothCommitEdgesAgreeWithoutReset : Obligations.BothCommitEdgesAgreeWithoutReset := by
  intro program turns t k s hturns hrun
  have keep : ∀ s t : State, s.Inv ∧ s.NoResetDue ∧ s.EdgesAgree → step s = .next t →
      t.Inv ∧ t.NoResetDue ∧ t.EdgesAgree := by
    rintro s t ⟨hinv, hnoReset, hagree⟩ e
    exact ⟨everyStepKeepsTheInvariant s t hinv e, hnoReset.step e, hagree.step hinv hnoReset e⟩
  have hstart : (State.launch program turns t).EdgesAgree := .of_rest (.inl rfl) rfl rfl
  obtain ⟨-, -, hagree⟩ :=
    runSteps_keeps keep k _ s ⟨launchMeetsTheInvariant program turns t, hturns, hstart⟩ hrun
  by_cases hhold : s.ph = Phase.latHold
  · exact .inl hhold
  by_cases hend : s.ph = Phase.latLoEnd
  · exact .inr (.inl hend)
  exact .inr (.inr (hagree.outside hhold hend))

end Sys2Proof.Machine

/-! SUPPORT. The fields of a frame word, and what a commit of twelve known samples writes (R36, R37, R40). -/

namespace Sys2Proof

/-- The address field of the word that twelve bits make is their first four (R40). -/
theorem frameAddr_frameWordOf {bits : List Bool} {addr : Nibble} (h : ∀ i, i < 4 → bits[i]? = some (addr.getLsbD i)) :
    frameAddr (frameWordOf bits) = addr := by
  refine BitVec.eq_of_getLsbD_eq fun i hi => ?_
  rw [frameAddr, BitVec.getLsbD_extractLsb', Nat.zero_add, frameWordOf_getLsbD bits i (by omega), h i hi]
  simp [hi]

/-- The data field is the other eight. -/
theorem frameData_frameWordOf {bits : List Bool} {data : Byte}
    (h : ∀ j, j < 8 → bits[4 + j]? = some (data.getLsbD j)) : frameData (frameWordOf bits) = data := by
  refine BitVec.eq_of_getLsbD_eq fun j hj => ?_
  rw [frameData, BitVec.getLsbD_extractLsb', frameWordOf_getLsbD bits (4 + j) (by omega), h j hj]
  simp [hj]

@[simp] theorem frame_length (a d : Byte) : (frame a d).length = 12 := by simp [frame_eq]

theorem frame_getElem? (a d : Byte) {i : Nat} (h : i ≤ 11) : (frame a d)[i]? = some (frameBit a d i) := by
  have hlen : i < Config.frameLen := Nat.lt_succ_of_le h
  simp [frame, List.getElem?_map, List.getElem?_range hlen]

theorem frame_addrBit (a d : Byte) {i : Nat} (h : i ≤ 3) : (frame a d)[i]? = some (a.getLsbD i) := by
  rw [frame_getElem? a d (by omega), frameBit, if_pos h]

theorem frame_dataBit (a d : Byte) {j : Nat} (h : j < 8) : (frame a d)[4 + j]? = some (d.getLsbD j) := by
  rw [frame_getElem? a d (by omega), frameBit, if_neg (by omega), Nat.add_sub_cancel_left]

@[simp] theorem txAddr_getLsbD (a : Byte) {i : Nat} (h : i < 4) : (txAddr a).getLsbD i = a.getLsbD i := by
  simp [txAddr, h]

/-- The bits of the frame make the frame word (R36). -/
@[simp] theorem frameWordOf_frame (a d : Byte) : frameWordOf (frame a d) = frameWord a d := by
  refine BitVec.eq_of_getLsbD_eq fun i hi => ?_
  rw [frameWordOf_getLsbD _ i hi, frame_getElem? a d (by omega), frameWord_getLsbD, Option.getD_some]

/-- The frame word addresses the register that the address argument names (R37, R38). -/
@[simp] theorem frameAddr_frameWord (a d : Byte) : frameAddr (frameWord a d) = txAddr a := by
  rw [← frameWordOf_frame]
  exact frameAddr_frameWordOf fun i hi => by rw [frame_addrBit a d (by omega), txAddr_getLsbD a hi]

@[simp] theorem frameData_frameWord (a d : Byte) : frameData (frameWord a d) = d := by
  rw [← frameWordOf_frame]
  exact frameData_frameWordOf fun _ hj => frame_dataBit a d hj

/-- Settles O5: bit by bit, the frame is the frame word, whose fields read back. -/
theorem frameIsTheFrameWordLsbFirst : Obligations.FrameIsTheFrameWordLsbFirst := by
  intro a d
  refine ⟨frame_length a d, fun i hi => frame_addrBit a d hi, fun i hlo hhi => ?_, fun i hi => ?_,
    frameWordOf_frame a d, frameAddr_frameWord a d, frameData_frameWord a d⟩
  · obtain ⟨j, rfl⟩ := Nat.exists_eq_add_of_le hlo
    rw [frame_dataBit a d (by omega), Nat.add_sub_cancel_left]
  · rw [frame_getElem? a d hi, frameWord_getLsbD]

end Sys2Proof

namespace Sys2Proof.Machine

/-- A number of samples that is neither 0 nor 12 (R40). -/
theorem RecvRegs.commit_unspecified {r : RecvRegs} {samples : List Level} (hzero : samples.length ≠ 0)
    (htwelve : samples.length ≠ 12) : r.commit samples = .unspecified := by
  have hlen : samples.length ≠ Config.frameLen := htwelve
  simp [RecvRegs.commit, List.length_eq_zero_iff.not.mp hzero, hlen]

/-- Twelve known samples are written as one frame (R40). -/
theorem RecvRegs.commit_bits (r : RecvRegs) {bits : List Bool} (h : bits.length = 12) :
    r.commit (bits.map levelOf) = r.memWrite (frameAddr (frameWordOf bits)) (frameData (frameWordOf bits)) := by
  have hlen : bits.length = Config.frameLen := h
  simp [RecvRegs.commit, hlen, show Config.frameLen ≠ 0 by decide]

/-- A commit of twelve known samples stores at the register they address, and at no other (R40, R42). -/
theorem RecvRegs.read_commit_bits {m : List Host.Cell} {bits : List Bool} (h : bits.length = 12) :
    ((RecvRegs.known m).commit (bits.map levelOf)).read (frameAddr (frameWordOf bits)) =
        some (.val (frameData (frameWordOf bits))) ∧
      ∀ k, k ≠ frameAddr (frameWordOf bits) →
        ((RecvRegs.known m).commit (bits.map levelOf)).read k = (RecvRegs.known m).read k := by
  rw [RecvRegs.commit_bits _ h]
  exact ⟨RecvRegs.read_memWrite_same _ _ _, fun k hk => RecvRegs.read_memWrite_other _ _ _ _ hk⟩

theorem event_latch_recv (e : CommitEdge) (o : Observation) (b : Bool) :
    (Observation.event e o (.write .latch b)).recv = o.recv.onLatch (e.seenIn o.lat (levelOf b)) := rfl

/-- Settles O37: a rise of CLOCK is a sample, and an edge of the receiver's kind a commit, by the number of samples. -/
theorem receiverCommitsTwelveSamples : Obligations.ReceiverCommitsTwelveSamples := by
  intro e o
  constructor
  · intro hclk
    simp [Observation.event, Observation.drive, hclk]
  · intro b hedge
    refine ⟨{ samples := [], regs := o.recv.regs.commit o.recv.samples }, ?_, rfl, fun hzero => ?_,
      fun hzero htwelve k => ?_, ?_⟩
    · rw [event_latch_recv, hedge, Receiver.onLatch_yes]
    · simp [List.length_eq_zero_iff.mp hzero]
    · simp [RecvRegs.commit_unspecified hzero htwelve]
    · intro bits addr data m hsamples hlen hregs haddr hdata
      have hcommit := RecvRegs.read_commit_bits (m := m) hlen
      rw [frameAddr_frameWordOf haddr, frameData_frameWordOf hdata] at hcommit
      rwa [hsamples, hregs]

/-- What a LATCH micro-operation does to a receiver on output pins. -/
theorem execLatch_receiver {i : Instr} {s t : State} {b : Bool}
    (hi : (i = .latLoStart ∧ b = false) ∨ (i = .latHi ∧ b = true) ∨ (i = .latLoEnd ∧ b = false))
    (hconf : s.pinsConfigured = true) (h : exec i s = .next t) (e : CommitEdge) :
    t.receiver e = (s.receiver e).onLatch (e.seenIn s.pinLat (levelOf b)) := by
  have hwrite : ∀ b, (s.pinWrite .latch b).receiver e = (s.receiver e).onLatch (e.seenIn s.pinLat (levelOf b)) :=
    fun b => congrArg Observation.recv (pinWrite_observed s .latch b e hconf)
  obtain ⟨rfl, rfl⟩ | ⟨rfl, rfl⟩ | ⟨rfl, rfl⟩ := hi <;> (cases h; exact hwrite _)

/-- Settles O38: the LATCH write is a commit at an edge of the receiver's kind, and nothing at no edge. -/
theorem latchMicroOperationsStoreAtTheSampledAddress : Obligations.LatchMicroOperationsStoreAtTheSampledAddress := by
  intro s t i b e bits m hi hconf hregs hsamples hlen h
  rw [execLatch_receiver hi hconf h e]
  constructor
  · intro hedge
    simpa [hedge, hsamples, hregs] using RecvRegs.read_commit_bits (m := m) hlen
  · intro hedge
    rw [hedge, Receiver.onLatch_no]

end Sys2Proof.Machine

/-! SUPPORT. One whole command of the sequencer: the state after its 53 steps (R75, R91). -/

namespace Sys2Proof.Machine

/-! ### The events of a command -/

theorem bitCells_succ (n : Nat) (v : Byte) :
    bitCells (n + 1) v = cellEvents (currentLsb v) ++ bitCells n (shiftRightOne v) := rfl

theorem shiftRightOne_getLsbD (v : Byte) (i : Nat) : (shiftRightOne v).getLsbD i = v.getLsbD (i + 1) := by
  simp [shiftRightOne, Nat.add_comm]

/-- Eight shifts leave nothing of a byte (R74). -/
theorem shiftRightOne_eight (v : Byte) : shiftRightOne^[8] v = 0 := by
  refine BitVec.eq_of_getLsbD_eq fun i hi => ?_
  simp [shiftRightOne_getLsbD]

/-- The cells of a value are the cells of its bits, the least significant first (R59). -/
theorem bitCells_eq (n : Nat) (v : Byte) : bitCells n v = ((List.range n).map v.getLsbD).flatMap cellEvents := by
  induction n generalizing v with
  | zero => rfl
  | succ n ih =>
    have hshift : (shiftRightOne v).getLsbD = v.getLsbD ∘ Nat.succ := funext (shiftRightOne_getLsbD v)
    rw [bitCells_succ, ih, hshift, List.range_succ_eq_map]
    simp [currentLsb]

/-- R71's two loops send the frame of R36. -/
theorem sendEvents_eq_frameEvents (t : Nat) (a d : Byte) : sendEvents t a d = frameEvents t a d := by
  have hbits : (List.range Config.addrW).map a.getLsbD ++ (List.range Config.dataW).map d.getLsbD = frame a d := by
    rw [frame_eq]
    rfl
  simp [sendEvents, frameEvents, bitCells_eq, ← hbits]

/-! ### States that show events -/

/-- `s` with the events `es` appended, and its levels and receivers as an observer of the wires leaves them. -/
def State.showing (es : List Event) (s : State) : State :=
  { s with
    trace := s.trace ++ es
    pinClk := ((s.observed .rise).events .rise es).clk
    pinDat := ((s.observed .rise).events .rise es).dat
    pinLat := ((s.observed .rise).events .rise es).lat
    recvRise := ((s.observed .rise).events .rise es).recv
    recvFall := ((s.observed .fall).events .fall es).recv }

section
variable {s : State} (hconf : s.pinsConfigured = true)

/-- An event does the same to the levels under either commit edge. -/
theorem event_levels {o o' : Observation} (ev : Event) (hclk : o.clk = o'.clk) (hdat : o.dat = o'.dat)
    (hlat : o.lat = o'.lat) : (Observation.event .rise o ev).clk = (Observation.event .fall o' ev).clk ∧
      (Observation.event .rise o ev).dat = (Observation.event .fall o' ev).dat ∧
      (Observation.event .rise o ev).lat = (Observation.event .fall o' ev).lat := by
  cases ev with
  | write p b => cases p <;> simp [Observation.event, Observation.drive, hclk, hdat, hlat]
  | accept _ _ | hold _ | done => exact ⟨hclk, hdat, hlat⟩
  | reset => exact ⟨rfl, rfl, rfl⟩

/-- The levels do not depend on the commit edge. -/
theorem events_levels {o o' : Observation} (es : List Event) (hclk : o.clk = o'.clk) (hdat : o.dat = o'.dat)
    (hlat : o.lat = o'.lat) : (o.events .rise es).clk = (o'.events .fall es).clk ∧
      (o.events .rise es).dat = (o'.events .fall es).dat ∧ (o.events .rise es).lat = (o'.events .fall es).lat := by
  induction es generalizing o o' with
  | nil => exact ⟨hclk, hdat, hlat⟩
  | cons ev rest ih =>
    obtain ⟨hclk', hdat', hlat'⟩ := event_levels ev hclk hdat hlat
    exact ih hclk' hdat' hlat'

theorem observed_showing (es : List Event) (e : CommitEdge) :
    (s.showing es).observed e = (s.observed e).events e es := by
  cases e with
  | rise => rfl
  | fall =>
    obtain ⟨hclk, hdat, hlat⟩ := events_levels (o := s.observed .rise) (o' := s.observed .fall) es rfl rfl rfl
    rw [State.showing, hclk, hdat, hlat]
    rfl

theorem showing_showing (es es' : List Event) : (s.showing es).showing es' = s.showing (es ++ es') := by
  rw [State.showing, observed_showing, observed_showing, ← Observation.events_append, ← Observation.events_append]
  simp [State.showing]

include hconf in
theorem showing_configured (es : List Event) : (s.showing es).pinsConfigured = true := hconf

include hconf in
/-- On output pins a pin write shows its event (R46). -/
theorem pinWrite_eq_showing (p : Pin) (b : Bool) : s.pinWrite p b = s.showing [.write p b] := by
  cases p <;>
    simp [State.pinWrite, State.showing, Observation.event, Observation.drive, drivenLevel_configured hconf]

/-- `s` with the registers of a command in progress: `SR`, `DREG`, `FLD`, `CNT` and `PH`, and an empty slot. -/
def State.withBlock (v d : Byte) (f : Field) (n : Nat) (ph : Nibble) (s : State) : State :=
  { s with
    sr := .val v, dreg := .val d, fld := .val f, cnt := .val (BitVec.ofNat 4 n), ph := ph, cmdValid := false }

include hconf in
theorem withBlock_pinWrite (v d : Byte) (f : Field) (n : Nat) (ph : Nibble) (p : Pin) (b : Bool) :
    (s.withBlock v d f n ph).pinWrite p b = (s.showing [.write p b]).withBlock v d f n ph :=
  pinWrite_eq_showing (s := s.withBlock v d f n ph) hconf p b

/-! ### The steps of a command, by the events they show -/

section
variable {v d : Byte} {f : Field} {n : Nat}

theorem accept_shows {a d : Byte} (hph : s.ph = Phase.idle) (hv : s.cmdValid = true) (ha : s.cmdAddr = .val a)
    (hd : s.cmdData = .val d) :
    sequencerStep false s = .next ((s.showing [.accept a d]).withBlock a d .addr 4 Phase.latLoStart) :=
  (sequencerStep_accept hph hv).trans (execAccept_eq ha hd)

theorem shift_shows : sequencerStep false (s.withBlock v d f n Phase.shift) =
    .next (s.withBlock (shiftRightOne v) d f n Phase.clkHi) :=
  (sequencerStep_shift rfl).trans (execShift_eq rfl)

theorem latHold_shows : sequencerStep false (s.withBlock v d f n Phase.latHold) =
    .next ((s.showing [.hold s.tLatchHold]).withBlock v d f n Phase.latLoEnd) := sequencerStep_latHold rfl

include hconf

theorem latLoStart_shows : sequencerStep false (s.withBlock v d f n Phase.latLoStart) =
    .next ((s.showing [.write .latch false]).withBlock v d f n Phase.clkLo) := by
  rw [sequencerStep_latLoStart rfl, execLatLoStart, withBlock_pinWrite hconf]
  rfl

theorem clkLo_shows : sequencerStep false (s.withBlock v d f n Phase.clkLo) =
    .next ((s.showing [.write .clock false]).withBlock v d f n Phase.datSet) := by
  rw [sequencerStep_clkLo rfl, execClkLo, withBlock_pinWrite hconf]
  rfl

theorem datSet_shows : sequencerStep false (s.withBlock v d f n Phase.datSet) =
    .next ((s.showing [.write .data (currentLsb v)]).withBlock v d f n Phase.shift) := by
  rw [sequencerStep_datSet rfl, execDatSet_eq rfl, withBlock_pinWrite hconf]
  rfl

theorem clkHi_within_shows (hr : countInRange f (BitVec.ofNat 4 (n + 2)) = true) (hn : n + 2 < 16) :
    sequencerStep false (s.withBlock v d f (n + 2) Phase.clkHi) =
      .next ((s.showing [.write .clock true]).withBlock v d f (n + 1) Phase.clkLo) := by
  have htwo : 2 ≤ (BitVec.ofNat 4 (n + 2)).toNat := by
    rw [BitVec.toNat_ofNat, Nat.mod_eq_of_lt hn]
    omega
  have hpred : BitVec.ofNat 4 (n + 2) - 1 = BitVec.ofNat 4 (n + 1) := by
    rw [BitVec.ofNat_add (n + 1) 1]
    exact BitVec.add_sub_cancel _ _
  rw [sequencerStep_clkHi rfl, execClkHi_within rfl rfl hr htwo, withBlock_pinWrite hconf, hpred]
  rfl

theorem clkHi_switch_shows : sequencerStep false (s.withBlock v d .addr 1 Phase.clkHi) =
    .next ((s.showing [.write .clock true]).withBlock d d .data 8 Phase.clkLo) := by
  rw [sequencerStep_clkHi rfl, execClkHi_switch rfl rfl rfl rfl, withBlock_pinWrite hconf]
  rfl

theorem clkHi_end_shows : sequencerStep false (s.withBlock v d .data 1 Phase.clkHi) =
    .next ((s.showing [.write .clock true]).withBlock v d .data 0 Phase.latHi) := by
  rw [sequencerStep_clkHi rfl, execClkHi_end rfl rfl rfl, withBlock_pinWrite hconf]
  rfl

theorem latHi_shows : sequencerStep false (s.withBlock v d f n Phase.latHi) =
    .next ((s.showing [.write .latch true]).withBlock v d f n Phase.latHold) := by
  rw [sequencerStep_latHi rfl, execLatHi, withBlock_pinWrite hconf]
  rfl

theorem latLoEnd_shows : sequencerStep false (s.withBlock v d f n Phase.latLoEnd) =
    .next ((s.showing [.write .latch false, .done]).withBlock v d f n Phase.idle) := by
  have hshow : (s.showing [.write .latch false]).emit .done = s.showing [.write .latch false, .done] :=
    showing_showing [.write .latch false] [.done]
  rw [sequencerStep_latLoEnd rfl, execLatLoEnd, withBlock_pinWrite hconf, ← hshow]
  rfl

/-! ### Bit cells and fields -/

/-- A bit cell, by what CLK_HI makes of its end (R83 to R86). -/
theorem runSequencer_cell {v' : Byte} {f' : Field} {n' : Nat} {ph' : Nibble}
    (hclkHi : ∀ u : State, u.pinsConfigured = true →
      sequencerStep false (u.withBlock (shiftRightOne v) d f n Phase.clkHi) =
        .next ((u.showing [.write .clock true]).withBlock v' d f' n' ph')) :
    runSequencer 4 (s.withBlock v d f n Phase.clkLo) =
      .next ((s.showing (cellEvents (currentLsb v))).withBlock v' d f' n' ph') := by
  have hconf' := showing_configured hconf
  rw [runSequencer_succ (clkLo_shows hconf), runSequencer_succ (datSet_shows (hconf' _)), showing_showing,
    runSequencer_succ shift_shows, runSequencer_succ (hclkHi _ (hconf' _)), showing_showing]
  rfl

/-- A field from its last `n + 1` cells on, by what CLK_HI makes of its end. -/
theorem runSequencer_field {g : Byte → Byte} {f' : Field} {n' : Nat} {ph' : Nibble} (hn : n + 1 < 16)
    (hcount : ∀ m, m ≤ n → countInRange f (BitVec.ofNat 4 (m + 1)) = true)
    (hend : ∀ (u : State) (w : Byte), u.pinsConfigured = true → sequencerStep false (u.withBlock w d f 1 Phase.clkHi) =
      .next ((u.showing [.write .clock true]).withBlock (g w) d f' n' ph')) :
    runSequencer (4 * (n + 1)) (s.withBlock v d f (n + 1) Phase.clkLo) =
      .next ((s.showing (bitCells (n + 1) v)).withBlock (g (shiftRightOne^[n + 1] v)) d f' n' ph') := by
  induction n generalizing s v with
  | zero => exact runSequencer_cell hconf fun u hu => hend u _ hu
  | succ n ih =>
    have hcell := runSequencer_cell (v := v) (d := d) hconf fun _ hu => clkHi_within_shows hu (hcount (n + 1) le_rfl) hn
    rw [show 4 * (n + 1 + 1) = 4 + 4 * (n + 1) by omega, runSequencer_add hcell,
      ih (showing_configured hconf _) (by omega) fun m hm => hcount m (by omega), showing_showing]
    rfl

/-- The address field, up to the field switch. -/
theorem runSequencer_addrField : runSequencer 16 (s.withBlock v d .addr 4 Phase.clkLo) =
    .next ((s.showing (bitCells 4 v)).withBlock d d .data 8 Phase.clkLo) :=
  runSequencer_field (n := 3) (g := fun _ => d) hconf (by decide) (by decide) fun _ _ hu => clkHi_switch_shows hu

/-- The data field, up to the end of the frame; every bit of `SR` is shifted out (R74). -/
theorem runSequencer_dataField : runSequencer 32 (s.withBlock v d .data 8 Phase.clkLo) =
    .next ((s.showing (bitCells 8 v)).withBlock 0 d .data 0 Phase.latHi) := by
  rw [← shiftRightOne_eight v]
  exact runSequencer_field (n := 7) (g := id) hconf (by decide) (by decide) fun _ _ hu => clkHi_end_shows hu

/-- The latch pulse (R87 to R89). -/
theorem runSequencer_latchPulse : runSequencer 3 (s.withBlock v d f n Phase.latHi) =
    .next ((s.showing [.write .latch true, .hold s.tLatchHold, .write .latch false, .done]).withBlock v d f n
      Phase.idle) := by
  have hconf' := showing_configured hconf
  rw [runSequencer_succ (latHi_shows hconf), runSequencer_succ latHold_shows, showing_showing,
    runSequencer_succ (latLoEnd_shows (hconf' _)), showing_showing]
  rfl

/-- The 53 steps of a command show the events of R71's pseudocode (R75, R91). -/
theorem runSequencer_command {a : Byte} (hph : s.ph = Phase.idle) (hv : s.cmdValid = true) (ha : s.cmdAddr = .val a)
    (hd : s.cmdData = .val d) : runSequencer 53 s =
      .next ((s.showing (sendEvents s.tLatchHold a d)).withBlock 0 d .data 0 Phase.idle) := by
  have hconf' := showing_configured hconf
  rw [runSequencer_succ (accept_shows hph hv ha hd), runSequencer_succ (latLoStart_shows (hconf' _)), showing_showing,
    show 51 = 16 + (32 + 3) from rfl, runSequencer_add (runSequencer_addrField (hconf' _)), showing_showing,
    runSequencer_add (runSequencer_dataField (hconf' _)), showing_showing, runSequencer_latchPulse (hconf' _),
    showing_showing]
  rfl

end

end

end Sys2Proof.Machine

/-! SUPPORT. The samples, the latch pulse and the receiver's store of one SEND (R40 to R42, R52, R53). -/

namespace Sys2Proof.Machine

theorem showing_withBlock_shows {s : State} (es : List Event) (v d : Byte) (f : Field) (n : Nat) (ph : Nibble) :
    s.Shows es ((s.showing es).withBlock v d f n ph) := ⟨rfl, observed_showing es⟩

/-- The host's write and the sequencer's 53 steps show the events of R75. -/
theorem send_shows {s : State} (a d : Byte) (hfree : s.slotFree = true) (hw : s.hostWaiting = false)
    (hconf : s.pinsConfigured = true) :
    ∃ u t, exec (.send a d) s = .next u ∧ runSequencer 53 u = .next t ∧ s.Shows (frameEvents s.tLatchHold a d) t := by
  obtain ⟨-, hph⟩ := (slotFree_iff s).mp hfree
  have hrun := runSequencer_command (s := s.postCommand a d) hconf hph rfl rfl rfl
  rw [sendEvents_eq_frameEvents] at hrun
  have hshows : (s.postCommand a d).Shows (frameEvents s.tLatchHold a d) _ :=
    showing_withBlock_shows _ 0 d .data 0 Phase.idle
  exact ⟨_, _, execSend_post hfree hw, hrun, hshows⟩

/-- The cells of the frame. -/
def frameCells (a d : Byte) : List Event := (frame a d).flatMap cellEvents

/-- LATCH up, the hold, LATCH down, and the end of the command (R87 to R89). -/
def latchPulse (t : Nat) : List Event := [.write .latch true, .hold t, .write .latch false, .done]

theorem frameEvents_eq (t : Nat) (a d : Byte) :
    frameEvents t a d = .accept a d :: .write .latch false :: (frameCells a d ++ latchPulse t) := rfl

/-! ### Samples -/

section
variable {clk l : Level} {bits : List Bool} {rest : List Event}

/-- Each cell of DATA bits samples its bit, and the latch pulse none (R39). -/
theorem atClockRises_data_cells (hrest : ∀ clk l, atClockRises .data clk l rest = []) :
    atClockRises .data clk l (bits.flatMap cellEvents ++ rest) = bits.map levelOf := by
  induction bits generalizing clk l with
  | nil => exact hrest clk l
  | cons b bits ih =>
    have hcell : atClockRises .data clk l (cellEvents b ++ (bits.flatMap cellEvents ++ rest)) =
        levelOf b :: atClockRises .data .hi (levelOf b) (bits.flatMap cellEvents ++ rest) := by
      simp [cellEvents, atClockRises, levelAfter]
    rw [List.flatMap_cons, List.append_assoc, hcell, ih, List.map_cons]

/-- No cell moves LATCH, so every rise of CLOCK finds it as it was. -/
theorem atClockRises_latch_cells :
    atClockRises .latch clk l (bits.flatMap cellEvents) = List.replicate bits.length l := by
  induction bits generalizing clk with
  | nil => rfl
  | cons b bits ih =>
    have hcell : atClockRises .latch clk l (cellEvents b ++ bits.flatMap cellEvents) =
        l :: atClockRises .latch .hi l (bits.flatMap cellEvents) := by
      simp [cellEvents, atClockRises, levelAfter]
    rw [List.flatMap_cons, hcell, ih, List.length_cons, List.replicate_succ]

theorem frameEvents_samples (t : Nat) (a d : Byte) :
    atClockRises .data clk l (frameEvents t a d) = (frame a d).map levelOf :=
  atClockRises_data_cells (rest := latchPulse t) fun _ _ => rfl

end

/-- Settles O31: a SEND's events sample its frame. -/
theorem samplesOfASendAreItsFrame : Obligations.SamplesOfASendAreItsFrame := by
  intro s a d hfree hw hconf
  obtain ⟨u, t, hu, ht, htrace, -⟩ := send_shows a d hfree hw hconf
  exact ⟨u, t, _, hu, ht, htrace, frameEvents_samples s.tLatchHold a d⟩

/-- Settles O32: the cells of the frame, and then the latch pulse. -/
theorem latchPulsesOnlyAfterTheTwelfthBit : Obligations.LatchPulsesOnlyAfterTheTwelfthBit := by
  intro s a d hfree hw hconf
  obtain ⟨u, t, hu, ht, htrace, -⟩ := send_shows a d hfree hw hconf
  refine ⟨u, t, frameCells a d, latchPulse s.tLatchHold, hu, ht, htrace, ?_, ?_, ?_, rfl, rfl⟩
  · simp [frameCells, cellEvents]
  · rw [frameCells, atClockRises_latch_cells, frame_length]
  · simp [latchPulse]

/-! ### The receiver -/

section
variable {o : Observation} {e : CommitEdge}

/-- A cell leaves CLOCK high and adds its bit to the samples (R39). -/
theorem events_cell (b : Bool) : o.events e (cellEvents b) =
    { o with clk := .hi, dat := levelOf b, recv := { o.recv with samples := o.recv.samples ++ [levelOf b] } } := by
  simp [cellEvents, Observation.event, Observation.drive]

/-- The cells of a list of bits add them to the samples, and touch neither LATCH nor a register. -/
theorem events_cells (bits : List Bool) :
    (o.events e (bits.flatMap cellEvents)).lat = o.lat ∧ (o.events e (bits.flatMap cellEvents)).recv =
      { o.recv with samples := o.recv.samples ++ bits.map levelOf } := by
  induction bits generalizing o with
  | nil => simp
  | cons b bits ih =>
    rw [List.flatMap_cons, Observation.events_append, events_cell, List.map_cons,
      List.append_cons _ (levelOf b) (bits.map levelOf)]
    exact ih

/-- From LATCH low the latch pulse has one edge of either kind, at which the receiver commits (R40, R41). -/
theorem events_latchPulse (t : Nat) (hlat : o.lat = .lo) :
    (o.events e (latchPulse t)).recv = o.recv.onLatch .yes := by
  cases e <;> simp [latchPulse, Observation.event, Observation.drive, CommitEdge.seenIn, hlat]

/-- What a receiver that holds no sample makes of a SEND: the one store of R40, whatever the levels before it. -/
theorem events_frameEvents_recv (t : Nat) (a d : Byte) (hnil : o.recv.samples = []) :
    (o.events e (frameEvents t a d)).recv = { samples := [], regs := o.recv.regs.memWrite (txAddr a) d } := by
  have hstart : Observation.event e o (.write .latch false) = { o with lat := .lo } := by
    simp [Observation.event, Observation.drive, Receiver.onLatch_nil hnil]
  obtain ⟨hlat, hrecv⟩ := events_cells (o := { o with lat := .lo }) (e := e) (frame a d)
  have hcommit : o.recv.regs.commit ((frame a d).map levelOf) = o.recv.regs.memWrite (txAddr a) d := by
    simp [RecvRegs.commit_bits _ (frame_length a d)]
  rw [frameEvents_eq, Observation.events_cons, Observation.events_cons,
    show Observation.event e o (.accept a d) = o from rfl, hstart, Observation.events_append, frameCells,
    events_latchPulse t hlat, hrecv, hnil, Receiver.onLatch_yes, List.nil_append, hcommit]

end

/-- Settles O39: the one store of a SEND is read back, and no other register is touched. -/
theorem sendWritesOneReceiverRegister : Obligations.SendWritesOneReceiverRegister := by
  intro s a d m e hfree hw hconf hnil hregs
  obtain ⟨u, t, hu, ht, -, hobs⟩ := send_shows a d hfree hw hconf
  have hrecv : t.receiver e = { samples := [], regs := (s.receiver e).regs.memWrite (txAddr a) d } :=
    (congrArg Observation.recv (hobs e)).trans (events_frameEvents_recv s.tLatchHold a d hnil)
  refine ⟨u, t, hu, ht, ?_, ?_, fun k hk => ?_⟩
  · rw [hrecv]
  · rw [hrecv, hregs, RecvRegs.read_memWrite_same]
  · rw [hrecv, RecvRegs.read_memWrite_other _ _ _ _ hk]

end Sys2Proof.Machine

/-! SUPPORT. The encoder and the decoder against each other: CMD16 (R55), and USEL5 row by row (R63, R64). -/

namespace Sys2Proof.Machine

/-! ### The command word -/

theorem commandOfWord_addr_getLsbD (w : BitVec 16) {i : Nat} (h : i < 8) :
    (commandOfWord w).addr.getLsbD i = w.getLsbD i := by
  simp [commandOfWord, h]

theorem commandOfWord_data_getLsbD (w : BitVec 16) {i : Nat} (h : i < 8) :
    (commandOfWord w).data.getLsbD i = w.getLsbD (i + 8) := by
  simp [commandOfWord, h, Nat.add_comm]

@[simp] theorem encodeCommand_commandOfWord (w : BitVec 16) :
    encodeCommand (commandOfWord w).addr (commandOfWord w).data = w := by
  refine BitVec.eq_of_getLsbD_eq fun i hi => ?_
  rw [encodeCommand_getLsbD]
  split
  · exact commandOfWord_addr_getLsbD w ‹_›
  · rw [commandOfWord_data_getLsbD w (by omega), Nat.sub_add_cancel (by omega)]

@[simp] theorem commandOfWord_encodeCommand (a d : Byte) :
    commandOfWord (encodeCommand a d) = { addr := a, data := d } := by
  have haddr : (commandOfWord (encodeCommand a d)).addr = a := BitVec.eq_of_getLsbD_eq fun i hi => by
    rw [commandOfWord_addr_getLsbD _ hi, encodeCommand_getLsbD, if_pos hi]
  have hdata : (commandOfWord (encodeCommand a d)).data = d := BitVec.eq_of_getLsbD_eq fun i hi => by
    rw [commandOfWord_data_getLsbD _ hi, encodeCommand_getLsbD, if_neg (by omega), Nat.add_sub_cancel]
  exact congr (congrArg Command.mk haddr) hdata

theorem decode_cmd16 (w : BitVec 16) :
    decode (.cmd16 w) = .ok (.send (commandOfWord w).addr (commandOfWord w).data) := rfl

@[simp] theorem decode_encodeCommand (a d : Byte) : decode (.cmd16 (encodeCommand a d)) = .ok (.send a d) := by
  rw [decode_cmd16, commandOfWord_encodeCommand]

/-! ### The selector -/

theorem phaseReserved_iff {ph : Nibble} : phaseReserved ph = true ↔ 9 ≤ ph.toNat := decide_eq_true_iff

@[simp] theorem selectorWord_of_bits (w : BitVec 5) : selectorWord (w.getLsbD 4) (w.extractLsb' 0 4) = w := by
  revert w
  decide

/-! The selector of each micro-operation: its phase code, under the don't-care bit but for IDLE and ACCEPT (R63). -/

theorem encode_idle (v : Bool) : encode v .idle = .usel5 (selectorWord false Phase.idle) := by cases v <;> rfl
theorem encode_accept (v : Bool) : encode v .accept = .usel5 (selectorWord true Phase.idle) := by cases v <;> rfl
theorem encode_latLoStart (v : Bool) : encode v .latLoStart = .usel5 (selectorWord v Phase.latLoStart) := by
  cases v <;> rfl
theorem encode_clkLo (v : Bool) : encode v .clkLo = .usel5 (selectorWord v Phase.clkLo) := by cases v <;> rfl
theorem encode_datSet (v : Bool) : encode v .datSet = .usel5 (selectorWord v Phase.datSet) := by cases v <;> rfl
theorem encode_shift (v : Bool) : encode v .shift = .usel5 (selectorWord v Phase.shift) := by cases v <;> rfl
theorem encode_clkHi (v : Bool) : encode v .clkHi = .usel5 (selectorWord v Phase.clkHi) := by cases v <;> rfl
theorem encode_latHi (v : Bool) : encode v .latHi = .usel5 (selectorWord v Phase.latHi) := by cases v <;> rfl
theorem encode_latHold (v : Bool) : encode v .latHold = .usel5 (selectorWord v Phase.latHold) := by cases v <;> rfl
theorem encode_latLoEnd (v : Bool) : encode v .latLoEnd = .usel5 (selectorWord v Phase.latLoEnd) := by cases v <;> rfl

/-- Of a selector the decoder reads the micro-operation that it encodes, or names its reserved phase code (R64, R65). -/
theorem decodeSelector_cases (v : Bool) (ph : Nibble) :
    (∃ i, decodeSelector (selectorWord v ph) = .ok i ∧ encode v i = .usel5 (selectorWord v ph)) ∨
    (phaseReserved ph = true ∧ decodeSelector (selectorWord v ph) = .error (.reservedPhase ph)) := by
  obtain rfl | rfl | rfl | rfl | rfl | rfl | rfl | rfl | rfl | hr := phase_cases ph
  · cases v with
    | false => exact .inl ⟨_, decodeSelector_idle false, encode_idle false⟩
    | true => exact .inl ⟨_, decodeSelector_idle true, encode_accept true⟩
  · exact .inl ⟨_, decodeSelector_latLoStart v, encode_latLoStart v⟩
  · exact .inl ⟨_, decodeSelector_clkLo v, encode_clkLo v⟩
  · exact .inl ⟨_, decodeSelector_datSet v, encode_datSet v⟩
  · exact .inl ⟨_, decodeSelector_shift v, encode_shift v⟩
  · exact .inl ⟨_, decodeSelector_clkHi v, encode_clkHi v⟩
  · exact .inl ⟨_, decodeSelector_latHi v, encode_latHi v⟩
  · exact .inl ⟨_, decodeSelector_latHold v, encode_latHold v⟩
  · exact .inl ⟨_, decodeSelector_latLoEnd v, encode_latLoEnd v⟩
  · exact .inr ⟨hr, decodeSelector_reserved v ph hr⟩

/-! ### Both directions -/

theorem decode_encode (i : Instr) (v : Bool) : decode (encode v i) = .ok i := by
  cases i with
  | send a d => exact decode_encodeCommand a d
  | idle => rw [encode_idle]; exact decodeSelector_idle false
  | accept => rw [encode_accept]; exact decodeSelector_idle true
  | latLoStart => rw [encode_latLoStart]; exact decodeSelector_latLoStart v
  | clkLo => rw [encode_clkLo]; exact decodeSelector_clkLo v
  | datSet => rw [encode_datSet]; exact decodeSelector_datSet v
  | shift => rw [encode_shift]; exact decodeSelector_shift v
  | clkHi => rw [encode_clkHi]; exact decodeSelector_clkHi v
  | latHi => rw [encode_latHi]; exact decodeSelector_latHi v
  | latHold => rw [encode_latHold]; exact decodeSelector_latHold v
  | latLoEnd => rw [encode_latLoEnd]; exact decodeSelector_latLoEnd v

/-- A code word is refused, for a reserved phase code, or it is a code word of the operation that it decodes to. -/
theorem decode_cases (c : CodeWord) :
    (∃ i v, decode c = .ok i ∧ encode v i = c) ∨
    (∃ v ph, phaseReserved ph = true ∧ c = .usel5 (selectorWord v ph) ∧ decode c = .error (.reservedPhase ph)) := by
  cases c with
  | cmd16 w => exact .inl ⟨_, false, decode_cmd16 w, congrArg CodeWord.cmd16 (encodeCommand_commandOfWord w)⟩
  | usel5 w =>
    obtain ⟨v, ph, rfl⟩ : ∃ v ph, w = selectorWord v ph := ⟨_, _, (selectorWord_of_bits w).symm⟩
    obtain ⟨i, hi, he⟩ | ⟨hr, he⟩ := decodeSelector_cases v ph
    · exact .inl ⟨i, v, hi, he⟩
    · exact .inr ⟨v, ph, hr, rfl, he⟩

/-- Settles O2: a code word decodes to what it encodes, and any other is a selector with a reserved phase code. -/
theorem decodeAndEncodeAgree : Obligations.DecodeAndEncodeAgree := by
  refine ⟨decode_encode, fun c i h => ?_, fun c r => ⟨fun h => ?_, ?_⟩⟩
  · obtain ⟨j, v, hj, he⟩ | ⟨_, _, -, -, he⟩ := decode_cases c
    · cases hj.symm.trans h
      exact ⟨v, he⟩
    · cases he.symm.trans h
  · obtain ⟨_, _, hj, -⟩ | ⟨v, ph, hr, hc, he⟩ := decode_cases c
    · cases hj.symm.trans h
    · cases he.symm.trans h
      exact ⟨v, ph, hr, hc, rfl⟩
  · rintro ⟨v, ph, hr, rfl, rfl⟩
    exact decodeSelector_reserved v ph hr

/-- Settles O1: the two bytes of the word, which put together are the word again. -/
theorem commandWordHoldsDataAboveAddress : Obligations.CommandWordHoldsDataAboveAddress := by
  intro w
  refine ⟨_, _, decode_cmd16 w, congrArg CodeWord.cmd16 (encodeCommand_commandOfWord w), fun i hi => ?_⟩
  exact ⟨commandOfWord_addr_getLsbD w hi, commandOfWord_data_getLsbD w hi⟩

/-- Settles O3, phase code by phase code. -/
theorem selectorDecoderIsTotal : Obligations.SelectorDecoderIsTotal := by
  refine ⟨fun w => ⟨_, _, decode_cmd16 w⟩, fun v ph => ?_⟩
  obtain rfl | rfl | rfl | rfl | rfl | rfl | rfl | rfl | rfl | hr := phase_cases ph
  · exact decodeSelector_idle v
  · exact decodeSelector_latLoStart v
  · exact decodeSelector_clkLo v
  · exact decodeSelector_datSet v
  · exact decodeSelector_shift v
  · exact decodeSelector_clkHi v
  · exact decodeSelector_latHi v
  · exact decodeSelector_latHold v
  · exact decodeSelector_latLoEnd v
  · obtain ⟨k, hk⟩ := Nat.exists_eq_add_of_le' (phaseReserved_iff.mp hr)
    simp only [hk]
    exact decodeSelector_reserved v ph hr

/-- Settles O4: V-ENC-1's word is its data byte above its address byte, and the others are selectors of R63's table or
of R64's reserved codes. -/
theorem writtenWordsDecode : Obligations.WrittenWordsDecode := by
  exact ⟨decode_encodeCommand 0x05 0xA3, decodeSelector_idle false, decodeSelector_idle true,
    decodeSelector_clkHi false, decodeSelector_clkHi true, decodeSelector_latLoEnd false, decodeSelector_latLoEnd true,
    decodeSelector_reserved false 9 (by decide), decodeSelector_reserved true 15 (by decide)⟩

end Sys2Proof.Machine

/-! SUPPORT. The turn that a step takes: the selected micro-operation, the host's command, a placed word (R79, R116). -/

namespace Sys2Proof.Machine

section
variable {s : State}

/-- The micro-operation that the selector decodes to is the one a sequencer step performs (R79). -/
theorem sequencerStep_of_decode {i : Instr} (h : decode (.usel5 (selectorWord s.cmdValid s.ph)) = .ok i) :
    sequencerStep false s = exec i s := by
  simp [sequencerStep, State.nextMicroOp, State.selector, h]

theorem hostStep_unconfigured (h : s.pinsConfigured = false) : hostStep s = .next s.configurePins := by
  simp [hostStep, h]

theorem hostStep_command {c : Command} {rest : List Command} (hconf : s.pinsConfigured = true)
    (hprog : s.hostProgram = c :: rest) : hostStep s = exec c.instr s := by
  simp [hostStep, hconf, State.nextCommand, hprog]

theorem hostStep_noCommand (hconf : s.pinsConfigured = true) (hprog : s.hostProgram = []) : hostStep s = .next s := by
  simp [hostStep, hconf, State.nextCommand, hprog]

theorem step_of_hostTurn (h : s.nextTurn = .host) : step s = hostStep s.turnTaken := by
  rw [step_eq, h, runTurn_host]

end

/-- Settles O7: a host turn is one move of the host, in each of its three cases. -/
theorem stepRunsTheHostsCommand : Obligations.StepRunsTheHostsCommand := by
  refine ⟨fun s hturn hconf => ?_, fun s c rest hturn hconf hprog => ⟨decode_encodeCommand _ _, ?_⟩,
    fun s hturn hconf hprog => ?_⟩
  · rw [step_of_hostTurn hturn]
    exact hostStep_unconfigured hconf
  · rw [step_of_hostTurn hturn]
    exact hostStep_command hconf hprog
  · rw [step_of_hostTurn hturn]
    exact hostStep_noCommand hconf hprog

theorem step_placeCommand (c : Command) (s : State) :
    step (s.placeCommand c) = exec c.instr { s.placeCommand c with schedule := s.schedule } :=
  hostStep_command (s := { s.placeCommand c with schedule := s.schedule }) rfl rfl

/-- A placed selector is split into `cmd_valid` and `PH`, which make it again (R63). -/
theorem step_placeSelector {w : BitVec 5} {i : Instr} (s : State) (h : decodeSelector w = .ok i) :
    step (s.placeSelector w) = exec i { s.placeSelector w with schedule := s.schedule } := by
  refine sequencerStep_of_decode (s := { s.placeSelector w with schedule := s.schedule }) ?_
  exact (congrArg decodeSelector (selectorWord_of_bits w)).trans h

theorem step_placeWord {c : CodeWord} {i : Instr} (s : State) (h : decode c = .ok i) :
    step (s.placeWord c) = exec i { s.placeWord c with schedule := s.schedule } := by
  cases c with
  | cmd16 w =>
    cases h
    exact step_placeCommand (commandOfWord w) s
  | usel5 w => exact step_placeSelector s h

/-- What the decoder reads from a table row's bits is what it reads from their code word. -/
theorem decodeTableWord_eq_some {nbits w : Nat} {i : Instr} (h : decodeTableWord nbits w = some i) :
    ∃ c, codeWordOfTable nbits w = some c ∧ decode c = .ok i := by
  unfold decodeTableWord at h
  split at h
  · cases h
  · rename_i c hc
    split at h
    · rename_i j hj
      cases h
      exact ⟨c, hc, hj⟩
    · cases h

theorem withFetchWord_eq_placeWord {nbits w : Nat} {c : CodeWord} (s : State) (h : codeWordOfTable nbits w = some c) :
    s.withFetchWord nbits w = s.placeWord c := by
  simp [State.withFetchWord, h]

/-- Settles O8: the code word of the row's bits is placed, and its agent has the next turn. -/
theorem placedWordRunsNext : Obligations.PlacedWordRunsNext := by
  intro s nbits w i h
  obtain ⟨c, hc, hi⟩ := decodeTableWord_eq_some h
  rw [withFetchWord_eq_placeWord s hc]
  exact step_placeWord s hi

end Sys2Proof.Machine

/-! SUPPORT. No operation writes a reserved phase code (R64, R90). -/

namespace Sys2Proof.Machine

/-- CLK_HI goes on to CLK_LO or to LAT_HI (R86). -/
theorem execClkHi_ph {s t : State} (h : execClkHi s = .next t) : t.ph = Phase.clkLo ∨ t.ph = Phase.latHi := by
  obtain ⟨_, _, -, -, -, -, rfl⟩ | ⟨_, _, -, -, -, -, rfl⟩ | ⟨_, -, -, -, rfl⟩ := execClkHi_cases h
  · exact .inl rfl
  · exact .inl rfl
  · exact .inr rfl

/-- An operation keeps `PH` or writes one of the nine codes that are not reserved. -/
theorem exec_ph {i : Instr} {s t : State} (h : exec i s = .next t) : t.ph = s.ph ∨ t.ph.toNat ≤ 8 := by
  cases i with
  | send a d => obtain ⟨-, -, rfl⟩ | ⟨-, -, rfl⟩ | ⟨-, rfl⟩ := execSend_cases h <;> exact .inl rfl
  | idle => cases h; exact .inl rfl
  | accept => obtain ⟨_, _, -, -, rfl⟩ := execAccept_cases h; exact .inr (by simp)
  | latLoStart => cases h; exact .inr (by simp)
  | clkLo => cases h; exact .inr (by simp)
  | datSet => obtain ⟨_, -, rfl⟩ := execDatSet_cases h; exact .inr (by simp)
  | shift => obtain ⟨_, -, rfl⟩ := execShift_cases h; exact .inr (by simp)
  | clkHi => obtain hph | hph := execClkHi_ph h <;> exact .inr (by simp [hph])
  | latHi => cases h; exact .inr (by simp)
  | latHold => cases h; exact .inr (by simp)
  | latLoEnd => cases h; exact .inr (by simp)

/-- Settles O49: an operation that changes `PH` writes an unreserved code, and the reset action writes IDLE's. -/
theorem reservedPhasesFaultAndAreNeverWritten : Obligations.ReservedPhasesFaultAndAreNeverWritten := by
  refine ⟨fun s h => sequencerStep_reserved (phaseReserved_iff.mpr h), fun i s t h hne => ?_, fun s t h => ?_⟩
  · exact (exec_ph h).resolve_left hne
  · cases h
    exact resetAction_ph s

end Sys2Proof.Machine

/-! SUPPORT. Host program text (R68): the literals' check, and reading back the spec's own spelling piece by piece. -/

namespace Sys2Proof.Machine

/-! ### The check of the two literals -/

theorem checkedCommand_of_le {p : SendStmt} (ha : p.addr ≤ 255) (hd : p.data ≤ 255) :
    checkedCommand p = .ok { addr := BitVec.ofNat 8 p.addr, data := BitVec.ofNat 8 p.data } := by
  simp [checkedCommand, SendStmt.command, SendStmt.wf, literalOk, ha, hd]

theorem checkedCommand_of_lt {p : SendStmt} (h : 255 < p.addr ∨ 255 < p.data) :
    checkedCommand p = .error .literalOutOfRange := by
  have hbad : ¬(p.addr ≤ 255 ∧ p.data ≤ 255) := by omega
  simp [checkedCommand, SendStmt.command, SendStmt.wf, literalOk, hbad]

theorem checkedCommand_of_bytes (c : Command) :
    checkedCommand { addr := c.addr.toNat, data := c.data.toNat } = .ok c := by
  rw [checkedCommand_of_le (Nat.le_of_lt_succ c.addr.isLt) (Nat.le_of_lt_succ c.data.isLt)]
  simp

/-- Settles O60: a command's byte is its literal exactly up to 255. -/
theorem literalsOutsideAByteAreRefused : Obligations.LiteralsOutsideAByteAreRefused := by
  refine fun p => ⟨fun ha hd => ⟨_, checkedCommand_of_le ha hd, ?_, ?_⟩, checkedCommand_of_lt⟩
  · exact (BitVec.toNat_ofNat p.addr 8).trans (Nat.mod_eq_of_lt (Nat.lt_succ_of_le ha))
  · exact (BitVec.toNat_ofNat p.data 8).trans (Nat.mod_eq_of_lt (Nat.lt_succ_of_le hd))

/-! ### Blanks at the ends -/

theorem trimBlanks_eq_self {cs : List Char} (hfront : cs.dropWhile isBlankChar = cs)
    (hback : cs.reverse.dropWhile isBlankChar = cs.reverse) : trimBlanks cs = cs := by
  rw [trimBlanks, hfront, hback, List.reverse_reverse]

theorem trimBlanks_cons_blank {c : Char} (cs : List Char) (h : isBlankChar c = true) :
    trimBlanks (c :: cs) = trimBlanks cs := by
  rw [trimBlanks, List.dropWhile_cons_of_pos h, trimBlanks]

/-! ### A literal -/

/-- The characters that divide a text or a line. -/
def dividers : List Char := ['\n', ';', ':', ',']

theorem digitValue_hexDigit : ∀ n, n < 16 → digitValue (hexDigit n) = some n := by decide

theorem isBlankChar_hexDigit : ∀ n, n < 16 → isBlankChar (hexDigit n) = false := by decide

theorem hexDigit_notMem_dividers : ∀ n, n < 16 → hexDigit n ∉ dividers := by decide

theorem numberValue_hexDigits {m n : Nat} (hm : m < 16) (hn : n < 16) :
    numberValue 16 [hexDigit m, hexDigit n] = some (16 * m + n) := by
  simp [numberValue, digitsValue, digitValue_hexDigit, hm, hn, Nat.mul_comm]

theorem literalValue_byteText (b : Byte) : literalValue (byteText b) = some b.toNat := by
  have hdigits : literalValue (byteText b) = some (16 * (b.toNat / 16) + b.toNat % 16) :=
    numberValue_hexDigits (by omega) (by omega)
  rw [hdigits, Nat.div_add_mod]

theorem byteText_disjoint_dividers (b : Byte) : (byteText b).Disjoint dividers := by
  simp only [byteText, List.disjoint_cons_left]
  exact ⟨by decide, by decide, hexDigit_notMem_dividers _ (by omega), hexDigit_notMem_dividers _ (by omega),
    List.disjoint_nil_left _⟩

theorem trimBlanks_byteText (b : Byte) : trimBlanks (byteText b) = byteText b := by
  have hlast : isBlankChar (hexDigit (b.toNat % 16)) = false := isBlankChar_hexDigit _ (by omega)
  exact trimBlanks_eq_self rfl (by simp [byteText, hlast])

/-! ### A line -/

/-- The two operands of a command's line. -/
def operandsText (c : Command) : List Char := byteText c.addr ++ ',' :: ' ' :: byteText c.data

theorem operandsOf_operandsText (c : Command) :
    operandsOf (operandsText c) = .ok { addr := c.addr.toNat, data := c.data.toNat } := by
  have hcomma : ∀ k ∈ byteText c.addr, (k != ',') = true := fun k hk =>
    bne_iff_ne.mpr fun h => byteText_disjoint_dividers c.addr hk (by simp [h, dividers])
  have htake : (operandsText c).takeWhile (· != ',') = byteText c.addr := by
    rw [operandsText, List.takeWhile_append_of_pos hcomma, List.takeWhile_cons_of_neg (by simp), List.append_nil]
  have hdrop : (operandsText c).dropWhile (· != ',') = ',' :: ' ' :: byteText c.data := by
    rw [operandsText, List.dropWhile_append_of_pos hcomma, List.dropWhile_cons_of_neg (by simp)]
  have hmem : (operandsText c).contains ',' = true := by simp [operandsText]
  rw [operandsOf, if_pos hmem, htake, hdrop, List.drop_one, List.tail_cons, trimBlanks_cons_blank _ (by decide),
    trimBlanks_byteText, trimBlanks_byteText, literalValue_byteText, literalValue_byteText]

/-- A command's line holds no line end, comment or label: of the dividers only its comma. -/
theorem commandText_disjoint (c : Command) : (commandText c).Disjoint ['\n', ';', ':'] := by
  have hbyte (b : Byte) : (byteText b).Disjoint ['\n', ';', ':'] :=
    List.disjoint_of_subset_right (by simp [dividers]) (byteText_disjoint_dividers b)
  simp only [commandText, List.disjoint_append_left]
  exact ⟨⟨⟨by simp, hbyte c.addr⟩, by simp⟩, hbyte c.data⟩

theorem trimBlanks_commandText (c : Command) : trimBlanks (commandText c) = commandText c := by
  have hlast : isBlankChar (hexDigit (c.data.toNat % 16)) = false := isBlankChar_hexDigit _ (by omega)
  exact trimBlanks_eq_self rfl (by simp [commandText, byteText, hlast])

theorem dropComment_commandText (c : Command) : dropComment (commandText c) = commandText c :=
  List.takeWhile_eq_self_iff.mpr fun _ hk =>
    bne_iff_ne.mpr fun h => commandText_disjoint c hk (by simp [h])

theorem dropLabel_commandText (c : Command) : dropLabel (commandText c) = .ok (commandText c) :=
  if_neg fun h => commandText_disjoint c (List.contains_iff_mem.mp h) (by simp)

theorem statementOf_commandText (c : Command) :
    statementOf (commandText c) = .ok { addr := c.addr.toNat, data := c.data.toNat } :=
  operandsOf_operandsText c

/-- What a line that is not blank holds: the command of its checked statement, after label and outer blanks (R68). -/
theorem lineCommand_of_statement {line text body : List Char} {p : SendStmt} {c : Command}
    (htext : trimBlanks (dropComment line) = text) (hne : text ≠ []) (hlabel : dropLabel text = .ok body)
    (hstatement : statementOf (trimBlanks body) = .ok p) (hcommand : checkedCommand p = .ok c) :
    lineCommand line = .ok (some c) := by
  cases text with
  | nil => exact absurd rfl hne
  | cons k text => simp [lineCommand, htext, hlabel, hstatement, hcommand]

theorem lineCommand_commandText (c : Command) : lineCommand (commandText c) = .ok (some c) := by
  have htext : trimBlanks (dropComment (commandText c)) = commandText c := by
    rw [dropComment_commandText, trimBlanks_commandText]
  have hstatement : statementOf (trimBlanks (commandText c)) = .ok { addr := c.addr.toNat, data := c.data.toNat } := by
    rw [trimBlanks_commandText, statementOf_commandText]
  exact lineCommand_of_statement htext (List.cons_ne_nil _ _) (dropLabel_commandText c) hstatement
    (checkedCommand_of_bytes c)

/-! ### The lines of a text -/

theorem textLines_cons {c : Char} (cs : List Char) {l : List Char} {ls : List (List Char)} (hc : c ≠ '\n')
    (h : textLines cs = l :: ls) : textLines (c :: cs) = (c :: l) :: ls := by
  simp [textLines, hc, h]

/-- A piece of text without a line end, up to the next one, is a line. -/
theorem textLines_line {line : List Char} (rest : List Char) (h : '\n' ∉ line) :
    textLines (line ++ '\n' :: rest) = line :: textLines rest := by
  induction line with
  | nil => simp [textLines]
  | cons c line ih =>
    obtain ⟨hc, hline⟩ := List.ne_and_not_mem_of_not_mem_cons h
    exact textLines_cons _ (Ne.symm hc) (ih hline)

theorem textProgram_cons {line : List Char} {rest : List Char} {c : Command} {cs : List Command} (hline : '\n' ∉ line)
    (hc : lineCommand line = .ok (some c)) (hrest : textProgram rest = .ok cs) :
    textProgram (line ++ '\n' :: rest) = .ok (c :: cs) := by
  rw [textProgram] at hrest ⊢
  rw [textLines_line rest hline]
  simp [linesProgram, hc, hrest]

/-- Settles O59, by induction on the commands: each line is read back as its command, and the last line is empty. -/
theorem programTextIsReadBack : Obligations.ProgramTextIsReadBack := by
  intro cs
  induction cs with
  | nil => rfl
  | cons c cs ih =>
    exact textProgram_cons (fun h => commandText_disjoint c h (by simp)) (lineCommand_commandText c) ih

end Sys2Proof.Machine

/-! SUPPORT. The host's move of a SEND: it writes a free slot, waits, and returns (R71 to R73). -/

namespace Sys2Proof.Machine

theorem slotFree_iff_busy (s : State) : s.slotFree = true ↔ s.cmdValid = false ∧ s.busy = false := by
  simp [State.slotFree]

/-- Settles O25: the slot being free and the call not waiting, the move is the host's write, field by field. -/
theorem sendWritesTheFreeSlot : Obligations.SendWritesTheFreeSlot := by
  intro s a d hv hb hw
  have hfree : s.slotFree = true := (slotFree_iff_busy s).mpr ⟨hv, hb⟩
  exact ⟨s.postCommand a d, execSend_post hfree hw, rfl, rfl, rfl, rfl, rfl, rfl, ⟨rfl, rfl, rfl, rfl⟩,
    ⟨rfl, rfl, rfl⟩, ⟨rfl, rfl⟩, rfl, rfl, rfl, rfl⟩

/-- Settles O26: a slot that is not free is waited for, and in a call that waits a free one is the return. -/
theorem sendWaitsWhileTakenAndReturnsWhenFree : Obligations.SendWaitsWhileTakenAndReturnsWhenFree := by
  refine ⟨fun s a d htaken => ?_, fun s a d hv hb hw => ?_⟩
  · have hfree : s.slotFree = false := by
      obtain hv | hb := htaken
      · simp [State.slotFree, hv]
      · simp [State.slotFree, hb]
    exact execSend_wait hfree
  · have hfree : s.slotFree = true := (slotFree_iff_busy s).mpr ⟨hv, hb⟩
    exact ⟨s.returnCall, execSend_return hfree hw, rfl, rfl, rfl, rfl, ⟨rfl, rfl, rfl, rfl⟩, ⟨rfl, rfl, rfl⟩,
      ⟨rfl, rfl, rfl⟩, ⟨rfl, rfl⟩, rfl, rfl, rfl⟩

end Sys2Proof.Machine

/-! SUPPORT. The sequencer's 53 steps give R71's composite state; trace and end state of a SEND (R74, R75, R78). -/

namespace Sys2Proof.Machine

/-! ### The end levels of a SEND -/

section
variable {o : Observation} {e : CommitEdge}

/-- After any cells CLOCK is high and DATA holds the last bit. -/
theorem events_cells_last (bits : List Bool) (b : Bool) :
    (o.events e ((bits ++ [b]).flatMap cellEvents)).clk = .hi ∧
      (o.events e ((bits ++ [b]).flatMap cellEvents)).dat = levelOf b := by
  rw [List.flatMap_append, List.flatMap_singleton, Observation.events_append, events_cell]
  exact ⟨rfl, rfl⟩

/-! The latch pulse leaves CLOCK and DATA, and ends with LATCH low. -/

theorem events_latchPulse_clk (t : Nat) : (o.events e (latchPulse t)).clk = o.clk := rfl
theorem events_latchPulse_dat (t : Nat) : (o.events e (latchPulse t)).dat = o.dat := rfl
theorem events_latchPulse_lat (t : Nat) : (o.events e (latchPulse t)).lat = .lo := rfl

/-- The last bit of the frame is the data argument's bit 7 (R36). -/
theorem frame_eq_append_last (a d : Byte) : ∃ bits, frame a d = bits ++ [d.getLsbD 7] :=
  List.getLast?_eq_some_iff.mp (by rw [frame_eq]; rfl)

/-- The levels after a SEND's events, whatever they were before (R74). -/
theorem events_frameEvents_levels (t : Nat) (a d : Byte) : (o.events e (frameEvents t a d)).clk = .hi ∧
    (o.events e (frameEvents t a d)).dat = levelOf (d.getLsbD 7) ∧ (o.events e (frameEvents t a d)).lat = .lo := by
  obtain ⟨bits, hbits⟩ := frame_eq_append_last a d
  rw [frameEvents_eq, Observation.events_cons, Observation.events_cons, Observation.events_append, frameCells, hbits,
    events_latchPulse_clk, events_latchPulse_dat, events_latchPulse_lat]
  exact and_assoc.mp ⟨events_cells_last bits _, rfl⟩

end

/-- The composite state of R71 and R74 is the one that shows the command's events and holds R74's registers. -/
theorem showing_withBlock_eq_afterSend (s : State) (a d : Byte) :
    (s.showing (sendEvents s.tLatchHold a d)).withBlock 0 d .data 0 Phase.idle = s.afterSend a d := by
  obtain ⟨hclk, hdat, hlat⟩ := events_frameEvents_levels (o := s.observed .rise) (e := .rise) s.tLatchHold a d
  rw [← sendEvents_eq_frameEvents] at hclk hdat hlat
  simp [State.showing, State.withBlock, State.afterSend, hclk, hdat, hlat]

/-- Settles O30: the state that shows the command's events is R71's composite state. -/
theorem sequencerRefinesTheCommand : Obligations.SequencerRefinesTheCommand := by
  intro s a d hph hv ha hd hconf
  refine ⟨?_, sendEvents_eq_frameEvents _ a d⟩
  rw [runSequencer_command hconf hph hv ha hd, showing_withBlock_eq_afterSend]

/-- After the host's write the sequencer's 53 steps give the composite state. -/
theorem runSequencer_postCommand {s : State} (a d : Byte) (hph : s.ph = Phase.idle) (hconf : s.pinsConfigured = true) :
    runSequencer 53 (s.postCommand a d) = .next ((s.postCommand a d).afterSend a d) := by
  obtain ⟨hrun, -⟩ := sequencerRefinesTheCommand (s.postCommand a d) a d hph rfl rfl rfl hconf
  exact hrun

/-- Settles O29: the end values are those of the composite state. -/
theorem sendEndState : Obligations.SendEndState := by
  intro s a d hph hv hw hconf
  have hfree : s.slotFree = true := (slotFree_iff s).mpr ⟨hv, hph⟩
  exact ⟨_, _, execSend_post hfree hw, runSequencer_postCommand a d hph hconf, rfl, rfl, rfl, rfl, rfl, rfl, rfl, rfl,
    rfl, rfl, rfl, rfl, rfl, rfl, hconf, rfl, rfl⟩

/-! ### The 42 events -/

/-- Three events a cell, twelve cells, two events before and four after them. -/
theorem frameEvents_length (t : Nat) (a d : Byte) : (frameEvents t a d).length = 42 := by
  have hcells : ((frame a d).flatMap cellEvents).length = 12 * 3 := by
    simp [List.length_flatMap, cellEvents]
  simp [frameEvents, hcells]

/-- Settles O28: the cell of each frame bit, in the order of R75. -/
theorem sendAppendsExactlyThisTrace : Obligations.SendAppendsExactlyThisTrace := by
  intro s a d hfree hw hconf
  obtain ⟨u, t, hu, ht, htrace, -⟩ := send_shows a d hfree hw hconf
  refine ⟨u, t, hu, ht, htrace, frameEvents_length _ a d, ?_⟩
  rw [frameEvents, frame, List.flatMap_map]
  rfl

/-- The frame is its frame word's bits (R36), so of the address it holds `a[3:0]` only (R38). -/
theorem frame_congr {a a' : Byte} (d : Byte) (h : txAddr a = txAddr a') : frame a d = frame a' d := by
  have hword : frameWord a d = frameWord a' d := congrArg (d ++ ·) h
  have hbits : frameBit a d = frameBit a' d := funext fun i => by
    rw [← frameWord_getLsbD, ← frameWord_getLsbD, hword]
  rw [frame, frame, hbits]

/-- Settles O36: after `Accept` come the cells of the frame and the latch pulse. -/
theorem wireEventsDependOnAddressNibbleAndData : Obligations.WireEventsDependOnAddressNibbleAndData := by
  intro s s' a a' d hfree hw hconf hfree' hw' hconf' hnibble hhold
  obtain ⟨u, t, hu, ht, htrace, -⟩ := send_shows a d hfree hw hconf
  obtain ⟨u', t', hu', ht', htrace', -⟩ := send_shows a' d hfree' hw' hconf'
  have hcells : frameCells a' d = frameCells a d := congrArg (·.flatMap cellEvents) (frame_congr d hnibble.symm)
  rw [frameEvents_eq, hcells, ← hhold] at htrace'
  exact ⟨u, u', t, t', _, hu, hu', ht, ht', htrace, htrace'⟩

end Sys2Proof.Machine

/-! SUPPORT. The edges and the DATA writes of one SEND (R12, R51, R76). -/

namespace Sys2Proof.Machine

/-- The count with one write more, by whether that is an edge (R12). -/
def EdgeCount.add : Seen → EdgeCount → EdgeCount
  | .yes, n => { n with sure := n.sure + 1 }
  | .no, n => n
  | .maybe, n => { n with possible := n.possible + 1 }

section
variable {dir : Level → Level → Seen} {l clk : Level} {p q : Pin} {bits : List Bool} {rest : List Event}

/-- A write of the pin counts by its direction, from the level before it. -/
theorem edgeCount_write_same (b : Bool) : edgeCount dir p l (.write p b :: rest) =
    .add (dir l (levelOf b)) (edgeCount dir p (levelOf b) rest) := by
  simp only [edgeCount, levelAfter, if_true]
  cases dir l (levelOf b) <;> rfl

theorem edgeCount_write_other (b : Bool) (h : q ≠ p) :
    edgeCount dir p l (.write q b :: rest) = edgeCount dir p l rest := by
  simp [edgeCount, levelAfter, h]

theorem edgeCount_accept (a d : Byte) : edgeCount dir p l (.accept a d :: rest) = edgeCount dir p l rest := rfl

/-- A cell writes CLOCK twice: down from the level before it, and up. -/
theorem edgeCount_clock_cell (b : Bool) : edgeCount dir .clock l (cellEvents b ++ rest) =
    .add (dir l .lo) (.add (dir .lo .hi) (edgeCount dir .clock .hi rest)) := by
  simp [cellEvents, edgeCount_write_same, edgeCount_write_other]

/-- Cells from CLOCK high on: in a direction that counts one of a cell's two writes, one edge a cell. -/
theorem edgeCount_clock_cells
    (hone : ∀ n, EdgeCount.add (dir .hi .lo) (.add (dir .lo .hi) n) = { n with sure := n.sure + 1 })
    (hrest : edgeCount dir .clock .hi rest = { sure := 0, possible := 0 }) :
    edgeCount dir .clock .hi (bits.flatMap cellEvents ++ rest) = { sure := bits.length, possible := 0 } := by
  induction bits with
  | nil => exact hrest
  | cons b bits ih => rw [List.flatMap_cons, List.append_assoc, edgeCount_clock_cell, hone, ih, List.length_cons]

/-- No cell writes LATCH. -/
theorem edgeCount_latch_cells :
    edgeCount dir .latch l (bits.flatMap cellEvents ++ rest) = edgeCount dir .latch l rest := by
  induction bits with
  | nil => rfl
  | cons b bits ih => simpa [cellEvents, edgeCount_write_other] using ih

/-- The CLOCK edges of a SEND: those of the first cell, which depend on the level before it, and one for each of the
other eleven. -/
theorem edgeCount_clock_frameEvents
    (hone : ∀ n, EdgeCount.add (dir .hi .lo) (.add (dir .lo .hi) n) = { n with sure := n.sure + 1 })
    (t : Nat) (a d : Byte) : edgeCount dir .clock l (frameEvents t a d) =
      .add (dir l .lo) (.add (dir .lo .hi) { sure := 11, possible := 0 }) := by
  obtain ⟨b, bits, hframe, hlen⟩ := List.length_eq_succ_iff.mp (frame_length a d)
  rw [frameEvents_eq, edgeCount_accept, edgeCount_write_other _ (by decide), frameCells, ← hframe, List.flatMap_cons,
    List.append_assoc, edgeCount_clock_cell, edgeCount_clock_cells hone rfl, hlen]

/-- The LATCH edges of a SEND: of the write before the frame, and of the latch pulse, which starts low. -/
theorem edgeCount_latch_frameEvents (t : Nat) (a d : Byte) : edgeCount dir .latch l (frameEvents t a d) =
    .add (dir l .lo) (edgeCount dir .latch .lo (latchPulse t)) := by
  rw [frameEvents_eq, edgeCount_accept, edgeCount_write_same, frameCells, edgeCount_latch_cells, levelOf_false]

/-- Each cell writes DATA once, after CLOCK has gone low (R59). -/
theorem clockAtDataWrites_cells (hrest : ∀ clk, clockAtDataWrites clk rest = []) :
    clockAtDataWrites clk (bits.flatMap cellEvents ++ rest) = List.replicate bits.length .lo := by
  induction bits generalizing clk with
  | nil => exact hrest clk
  | cons b bits ih => exact congrArg (Level.lo :: ·) ih

theorem clockAtDataWrites_frameEvents (t : Nat) (a d : Byte) :
    clockAtDataWrites clk (frameEvents t a d) = List.replicate 12 .lo := by
  rw [← frame_length a d]
  exact clockAtDataWrites_cells (rest := latchPulse t) fun _ => rfl

/-- A cell's CLOCK write closes a window left open before it (R51). -/
theorem dataStable_cells (w : Bool) : dataStable w (bits.flatMap cellEvents) = true := by
  induction bits generalizing w with
  | nil => rfl
  | cons b bits ih => rw [List.flatMap_cons, dataStable_append, ih]; rfl

theorem dataStable_frameEvents (w : Bool) (t : Nat) (a d : Byte) : dataStable w (frameEvents t a d) = true := by
  simp [frameEvents_eq, dataStable, dataStable_append, frameCells, dataStable_cells, latchPulse]

end

/-- Settles O33: the edges of R76, by the level before the first write of each pin. -/
theorem edgesOfOneSend : Obligations.EdgesOfOneSend := by
  intro s a d hfree hw hconf
  obtain ⟨u, t, hu, ht, htrace, -⟩ := send_shows a d hfree hw hconf
  refine ⟨u, t, _, hu, ht, htrace, ?_, ?_, ?_, ?_, clockAtDataWrites_frameEvents _ a d, dataStable_frameEvents _ _ a d⟩
  · rw [edgeCount_clock_frameEvents fun _ => rfl, rising_to_lo]
    rfl
  · rw [edgeCount_clock_frameEvents fun _ => rfl]
    cases s.pinClk <;> rfl
  · rw [edgeCount_latch_frameEvents, rising_to_lo]
    rfl
  · rw [edgeCount_latch_frameEvents]
    cases s.pinLat <;> rfl

end Sys2Proof.Machine

/-! SUPPORT. A command under the default turn: the host writes, the sequencer runs while the slot is not free, and the
host's call returns (R72, R110, R123). -/

namespace Sys2Proof.Machine

section
variable {s t v : State}

/-! ### Whose turn it is with no turns scheduled (log 2) -/

theorem step_host (hsched : s.schedule = []) (hready : s.hostReady = true) : step s = hostStep s.turnTaken :=
  step_of_hostTurn (by simp [State.nextTurn, hsched, State.defaultTurn, hready])

theorem turnTaken_eq_self (hsched : s.schedule = []) : s.turnTaken = s := by
  rw [State.turnTaken, hsched, List.tail_nil, ← hsched]

/-- With a free slot and a command to send, a step is the host's move of that SEND. -/
theorem step_command {c : Command} {rest : List Command} (hsched : s.schedule = []) (hconf : s.pinsConfigured = true)
    (hprog : s.hostProgram = c :: rest) (hfree : s.slotFree = true) : step s = exec c.instr s := by
  rw [step_host hsched (by simp [State.hostReady, hprog, hfree]), turnTaken_eq_self hsched,
    hostStep_command hconf hprog]

theorem step_write {c : Command} {rest : List Command} (hsched : s.schedule = []) (hconf : s.pinsConfigured = true)
    (hprog : s.hostProgram = c :: rest) (hfree : s.slotFree = true) (hw : s.hostWaiting = false) :
    step s = .next (s.postCommand c.addr c.data) :=
  (step_command hsched hconf hprog hfree).trans (execSend_post hfree hw)

theorem step_return {c : Command} {rest : List Command} (hsched : s.schedule = []) (hconf : s.pinsConfigured = true)
    (hprog : s.hostProgram = c :: rest) (hfree : s.slotFree = true) (hw : s.hostWaiting = true) :
    step s = .next s.returnCall :=
  (step_command hsched hconf hprog hfree).trans (execSend_return hfree hw)

/-- While the slot is not free, a step is the sequencer's. -/
theorem step_sequencer (hsched : s.schedule = []) (hconf : s.pinsConfigured = true) (htaken : s.slotFree = false) :
    step s = sequencerStep false s := by
  have hturn : s.nextTurn = .sequencer false := by
    simp [State.nextTurn, hsched, State.defaultTurn, State.hostReady, hconf, htaken]
  rw [step_eq, hturn, runTurn_sequencer, turnTaken_eq_self hsched]

/-! ### Runs -/

theorem runSteps_add_next {j k : Nat} (h : runSteps j s = .next t) : runSteps (j + k) s = runSteps k t := by
  induction j generalizing s with
  | zero =>
    cases h
    rw [Nat.zero_add]
  | succ j ih =>
    obtain ⟨u, hu, h⟩ := runSteps_succ_cases h
    rw [Nat.succ_add, runSteps_succ_next hu, ih h]

/-- What a run of one more sequencer step that answers a next state did first. -/
theorem runSequencer_succ_cases {k : Nat} (h : runSequencer (k + 1) s = .next t) :
    ∃ u, sequencerStep false s = .next u ∧ runSequencer k u = .next t := by
  cases hs : sequencerStep false s with
  | next u => exact ⟨u, rfl, by rw [← runSequencer_succ hs]; exact h⟩
  | fault f => simp [runSequencer, List.replicate_succ, runTurns, hs] at h
  | refused r => simp [runSequencer, List.replicate_succ, runTurns, hs] at h

/-- With a free slot the sequencer stays where it is (R80). -/
theorem runSequencer_of_slotFree (hfree : s.slotFree = true) (k : Nat) : runSequencer k s = .next s := by
  obtain ⟨hv, hph⟩ := (slotFree_iff s).mp hfree
  induction k with
  | zero => rfl
  | succ k ih => rw [runSequencer_succ (sequencerStep_idle hph hv), ih]

/-- No sequencer step without a reset touches the boot premise (R115). -/
theorem SequencerMove.pinsConfigured (m : SequencerMove s t) : t.pinsConfigured = s.pinsConfigured := by
  cases m with
  | accept _ _ e => obtain ⟨a, d, -, -, rfl⟩ := execAccept_cases e; rfl
  | datSet _ e => obtain ⟨v, -, rfl⟩ := execDatSet_cases e; rfl
  | shift _ e => obtain ⟨v, -, rfl⟩ := execShift_cases e; rfl
  | clkHi _ e =>
    obtain ⟨_, _, -, -, -, -, rfl⟩ | ⟨_, _, -, -, -, -, rfl⟩ | ⟨_, -, -, -, rfl⟩ := execClkHi_cases e <;> rfl
  | idle _ _ e | latLoStart _ e | clkLo _ e | latHi _ e | latHold _ e | latLoEnd _ e => cases e; rfl

/-- A run of the sequencer that ends with the slot not free is a run of the machine: a slot once free would have stayed
free, so the host has no move in between. -/
theorem runSteps_of_runSequencer {k : Nat} (hsched : s.schedule = []) (hconf : s.pinsConfigured = true)
    (htaken : v.slotFree = false) (hrun : runSequencer k s = .next v) : runSteps k s = .next v := by
  induction k generalizing s with
  | zero => exact hrun
  | succ k ih =>
    have hs : s.slotFree = false := by
      by_contra hfree
      rw [Bool.not_eq_false] at hfree
      cases (runSequencer_of_slotFree hfree (k + 1)).symm.trans hrun
      simp [hfree] at htaken
    obtain ⟨u, hu, hrun⟩ := runSequencer_succ_cases hrun
    have hsched' : u.schedule = [] := (runTurn_schedule (turn := .sequencer false) hu).trans hsched
    have hconf' : u.pinsConfigured = true := (sequencerStep_move hu).pinsConfigured.trans hconf
    rw [runSteps_succ_next ((step_sequencer hsched hconf hs).trans hu)]
    exact ih hsched' hconf' hrun

/-! ### The command -/

/-- One step before its end the command is at LAT_LO_END (R90). -/
theorem runSequencer_toLatLoEnd {a d : Byte} (hconf : s.pinsConfigured = true) (hph : s.ph = Phase.idle)
    (hv : s.cmdValid = true) (ha : s.cmdAddr = .val a) (hd : s.cmdData = .val d) :
    ∃ es, runSequencer 52 s = .next ((s.showing es).withBlock 0 d .data 0 Phase.latLoEnd) := by
  have hconf' := showing_configured hconf
  rw [runSequencer_succ (accept_shows hph hv ha hd), runSequencer_succ (latLoStart_shows (hconf' _)), showing_showing,
    show 50 = 16 + (32 + 2) from rfl, runSequencer_add (runSequencer_addrField (hconf' _)), showing_showing,
    runSequencer_add (runSequencer_dataField (hconf' _)), showing_showing, runSequencer_succ (latHi_shows (hconf' _)),
    showing_showing, runSequencer_succ latHold_shows, showing_showing]
  exact ⟨_, rfl⟩

/-- The sequencer's 53 steps of a waiting command are the machine's: the slot is free after the last of them only. -/
theorem runSteps_command {a d : Byte} (hsched : s.schedule = []) (hconf : s.pinsConfigured = true)
    (hph : s.ph = Phase.idle) (hv : s.cmdValid = true) (ha : s.cmdAddr = .val a) (hd : s.cmdData = .val d) :
    runSteps 53 s = .next (s.afterSend a d) := by
  obtain ⟨hrun, -⟩ := sequencerRefinesTheCommand s a d hph hv ha hd hconf
  obtain ⟨es, hbefore⟩ := runSequencer_toLatLoEnd hconf hph hv ha hd
  obtain ⟨u, hlast, hu⟩ := runSequencer_succ_cases ((runSequencer_add (k := 1) hbefore).symm.trans hrun)
  cases hu
  have hturn : step ((s.showing es).withBlock 0 d .data 0 Phase.latLoEnd) = sequencerStep false _ :=
    step_sequencer hsched hconf rfl
  rw [show 53 = 52 + 1 from rfl, runSteps_add_next (runSteps_of_runSequencer hsched hconf rfl hbefore),
    runSteps_succ_next (hturn.trans hlast), runSteps_zero]

end

/-- Settles O57: the host's write, the 53 steps of the command, and the host's return. -/
theorem uninterruptedSendReturns : Obligations.UninterruptedSendReturns := by
  intro s c rest hfree hw hconf hprog hsched
  obtain ⟨-, hph⟩ := (slotFree_iff s).mp hfree
  have hwrite := step_write hsched hconf hprog hfree hw
  have hcommand := runSteps_command (s := s.postCommand c.addr c.data) hsched hconf hph rfl rfl rfl
  have hreturn := step_return (s := (s.postCommand c.addr c.data).afterSend c.addr c.data) hsched hconf hprog rfl rfl
  have hrun := (runSteps_succ_next (k := 54) hwrite).trans
    ((runSteps_add_next (k := 1) hcommand).trans (runSteps_succ_next (k := 0) hreturn))
  exact ⟨_, hrun, congrArg List.tail hprog, rfl, rfl, congrArg (s.trace ++ ·) (sendEvents_eq_frameEvents _ _ _)⟩

end Sys2Proof.Machine

/-! SUPPORT. The micro-operations one by one: what each does, and what it leaves unchanged (R80 to R89). -/

namespace Sys2Proof.Machine

section
variable (s : State)

theorem pinWrite_clock_receiver (b : Bool) (e : CommitEdge) : (s.pinWrite .clock b).receiver e =
    (s.receiver e).onClock (rising s.pinClk (s.drivenLevel b)) s.pinDat := by cases e <;> rfl

/-- A CLOCK write to 0 is no rise, whatever the level before it (R39). -/
theorem pinWrite_clockLow_sameReceivers (hconf : s.pinsConfigured = true) :
    SameReceivers s (s.pinWrite .clock false) := by
  simp [SameReceivers, drivenLevel_configured hconf]

/-- A CLOCK write to 1 from 1 is no rise (R39). -/
theorem pinWrite_clockHigh_sameReceivers (hconf : s.pinsConfigured = true) (hclk : s.pinClk = .hi) :
    SameReceivers s (s.pinWrite .clock true) := by
  simp [SameReceivers, drivenLevel_configured hconf, hclk]

/-- A rise of CLOCK samples DATA into every receiver, and writes none of their registers (R39, R40). -/
theorem pinWrite_clockHigh_samples (hconf : s.pinsConfigured = true) (hclk : s.pinClk = .lo) (e : CommitEdge) :
    ((s.pinWrite .clock true).receiver e).samples = (s.receiver e).samples ++ [s.pinDat] ∧
      ((s.pinWrite .clock true).receiver e).regs = (s.receiver e).regs := by
  simp [pinWrite_clock_receiver, drivenLevel_configured hconf, hclk]

end

/-- Settles O13: IDLE answers the state itself, and an idle sequencer without a command performs it. -/
theorem idleChangesNothing : Obligations.IdleChangesNothing :=
  fun _ => ⟨rfl, sequencerStep_idle⟩

/-- Settles O14: both argument registers hold values, so ACCEPT answers R81's state. -/
theorem acceptTakesTheWaitingCommand : Obligations.AcceptTakesTheWaitingCommand := by
  intro s a d ha hd
  exact ⟨_, execAccept_eq ha hd, rfl, rfl, rfl, rfl, rfl, rfl, rfl, rfl, rfl, rfl, ⟨rfl, rfl, rfl⟩, ⟨rfl, rfl⟩,
    ⟨rfl, rfl, rfl, rfl, rfl⟩⟩

/-- Settles O15: a LATCH write to 0, which each receiver sees as an edge of its kind or none. -/
theorem latLoStartDrivesLatchLow : Obligations.LatLoStartDrivesLatchLow := by
  intro s
  exact ⟨_, rfl, rfl, rfl,
    fun hconf => ⟨drivenLevel_configured hconf false, execLatch_receiver (.inl ⟨rfl, rfl⟩) hconf rfl⟩,
    fun hconf => drivenLevel_unconfigured hconf false, rfl, rfl, ⟨rfl, rfl, rfl, rfl⟩, ⟨rfl, rfl, rfl⟩,
    ⟨rfl, rfl, rfl, rfl, rfl⟩⟩

/-- Settles O16: a CLOCK write to 0, at which no receiver samples. -/
theorem clkLoDrivesClockLow : Obligations.ClkLoDrivesClockLow := by
  intro s
  exact ⟨_, rfl, rfl, rfl,
    fun hconf => ⟨drivenLevel_configured hconf false, pinWrite_clockLow_sameReceivers s hconf⟩,
    fun hconf => drivenLevel_unconfigured hconf false, rfl, rfl, ⟨rfl, rfl, rfl, rfl⟩, ⟨rfl, rfl, rfl⟩,
    ⟨rfl, rfl, rfl, rfl, rfl⟩⟩

/-- Settles O17: a DATA write of `SR[0]`, of which the receivers see nothing before the next rise of CLOCK. -/
theorem datSetDrivesTheCurrentBit : Obligations.DatSetDrivesTheCurrentBit := by
  intro s v hv
  exact ⟨_, execDatSet_eq hv, rfl, rfl, fun hconf => drivenLevel_configured hconf _,
    fun hconf => drivenLevel_unconfigured hconf _, rfl, rfl, ⟨rfl, rfl, rfl, rfl⟩, ⟨rfl, rfl, rfl⟩, ⟨rfl, rfl⟩,
    ⟨rfl, rfl, rfl, rfl, rfl⟩⟩

/-- Settles O18: each bit is the one above it, and above bit 7 there is none. -/
theorem shiftMovesEveryBitDown : Obligations.ShiftMovesEveryBitDown := by
  intro s v hv
  have hfill : (shiftRightOne v).getLsbD 7 = false :=
    (shiftRightOne_getLsbD v 7).trans (BitVec.getLsbD_of_ge v 8 le_rfl)
  exact ⟨_, shiftRightOne v, execShift_eq hv, rfl, rfl, hfill, fun i _ => shiftRightOne_getLsbD v i, rfl, rfl, rfl, rfl,
    ⟨rfl, rfl, rfl⟩, ⟨rfl, rfl, rfl⟩, ⟨rfl, rfl⟩, ⟨rfl, rfl, rfl, rfl, rfl⟩⟩

/-- R86's range, as the range test decides it. -/
theorem countInRange_iff {f : Field} {n : Nibble} : countInRange f n = true ↔
    (f = .addr ∧ 1 ≤ n.toNat ∧ n.toNat ≤ 4) ∨ (f = .data ∧ 1 ≤ n.toNat ∧ n.toNat ≤ 8) := by
  cases f <;> simp [countInRange]

/-- Settles O19: within a field CLK_HI is the CLOCK write to 1 and a count one lower, which is not yet 0. -/
theorem clkHiCountsDownWithinAField : Obligations.ClkHiCountsDownWithinAField := by
  intro s n f hn hf h2 hmax
  have hr : countInRange f n = true :=
    countInRange_iff.mpr (hmax.imp (.imp_right fun h => ⟨by omega, h⟩) (.imp_right fun h => ⟨by omega, h⟩))
  have hpred : (n - 1).toNat + 1 = n.toNat := by bv_omega
  exact ⟨_, n - 1, execClkHi_within hn hf hr h2, rfl, hpred, rfl, rfl, fun hconf => drivenLevel_configured hconf true,
    fun hconf => drivenLevel_unconfigured hconf true, pinWrite_clockHigh_samples s, pinWrite_clockHigh_sameReceivers s,
    rfl, rfl, rfl, rfl, rfl, ⟨rfl, rfl, rfl⟩, ⟨rfl, rfl, rfl, rfl, rfl⟩⟩

/-- Settles O20: at the 4th address bit CLK_HI is the CLOCK write to 1 and the field switch. -/
theorem clkHiSwitchesTheField : Obligations.ClkHiSwitchesTheField := by
  intro s d hn hf hd
  exact ⟨_, execClkHi_switch hn hf rfl hd, rfl, rfl, rfl, rfl, rfl, fun hconf => drivenLevel_configured hconf true,
    fun hconf => drivenLevel_unconfigured hconf true, pinWrite_clockHigh_samples s, pinWrite_clockHigh_sameReceivers s,
    rfl, rfl, rfl, ⟨rfl, rfl, rfl⟩, ⟨rfl, rfl, rfl, rfl, rfl⟩⟩

/-- Settles O21: at the 8th data bit CLK_HI is the CLOCK write to 1 and a count of 0, and `DREG` is not read. -/
theorem clkHiEndsTheFrame : Obligations.ClkHiEndsTheFrame := by
  intro s hn hf
  exact ⟨_, execClkHi_end hn hf rfl, rfl, rfl, rfl, fun hconf => drivenLevel_configured hconf true,
    fun hconf => drivenLevel_unconfigured hconf true, pinWrite_clockHigh_samples s, pinWrite_clockHigh_sameReceivers s,
    rfl, rfl, rfl, rfl, rfl, ⟨rfl, rfl, rfl⟩, ⟨rfl, rfl, rfl, rfl, rfl⟩⟩

/-- Settles O22: a LATCH write to 1 is no falling edge, so it is nothing to the receiver that commits on those. -/
theorem latHiDrivesLatchHigh : Obligations.LatHiDrivesLatchHigh := by
  intro s
  refine ⟨_, rfl, rfl, rfl, fun hconf => ?_, fun hconf => drivenLevel_unconfigured hconf true, rfl, rfl,
    ⟨rfl, rfl, rfl, rfl⟩, ⟨rfl, rfl, rfl⟩, ⟨rfl, rfl, rfl, rfl, rfl⟩⟩
  have hseen := execLatch_receiver (i := .latHi) (s := s) (.inr (.inl ⟨rfl, rfl⟩)) hconf rfl
  have hfall : s.recvFall.onLatch (falling s.pinLat .hi) = s.recvFall := by simp
  exact ⟨drivenLevel_configured hconf true, (hseen .fall).trans hfall, hseen .rise⟩

/-- Settles O23: the one event of the latch hold, and `PH`. -/
theorem latHoldHoldsTheLatch : Obligations.LatHoldHoldsTheLatch := by
  intro s
  exact ⟨_, rfl, rfl, rfl, ⟨rfl, rfl, rfl⟩, ⟨rfl, rfl, rfl, rfl⟩, ⟨rfl, rfl, rfl⟩, ⟨rfl, rfl⟩,
    ⟨rfl, rfl, rfl, rfl, rfl⟩⟩

/-- Settles O24: a LATCH write to 0 is no rising edge, so it is nothing to the receiver that commits on those; `Done`
comes after it. -/
theorem latLoEndCompletesTheCommand : Obligations.LatLoEndCompletesTheCommand := by
  intro s
  have htrace : (s.trace ++ [.write .latch false]) ++ [.done] = s.trace ++ [.write .latch false, .done] := by simp
  refine ⟨_, rfl, rfl, rfl, htrace, fun hconf => ?_, fun hconf => drivenLevel_unconfigured hconf false, rfl, rfl,
    ⟨rfl, rfl, rfl, rfl⟩, ⟨rfl, rfl, rfl⟩, ⟨rfl, rfl, rfl, rfl, rfl⟩⟩
  have hseen := execLatch_receiver (i := .latLoEnd) (s := s) (.inr (.inr ⟨rfl, rfl⟩)) hconf rfl
  have hrise : s.recvRise.onLatch (rising s.pinLat .lo) = s.recvRise := by simp
  exact ⟨drivenLevel_configured hconf false, (hseen .rise).trans hrise, hseen .fall⟩

end Sys2Proof.Machine

/-! SUPPORT. The sequencer's turn: the step it takes (R79), and the successors of `PH` (R90). -/

namespace Sys2Proof.Machine

/-- Settles O6: a sequencer turn with `rst = 0` performs the micro-operation that the selector decodes to. -/
theorem stepRunsTheSelectedMicroOperation : Obligations.StepRunsTheSelectedMicroOperation := by
  intro s i hturn hdecode
  rw [step_eq, hturn]
  exact sequencerStep_of_decode (s := s.turnTaken) hdecode

section
variable {s t : State}

/-- CLK_HI's successor, by the count and the field (R86, R90). -/
theorem execClkHi_successor {n : Nibble} {f : Field} (h : execClkHi s = .next t) (hn : s.cnt = .val n)
    (hf : s.fld = .val f) : (2 ≤ n.toNat → t.ph = Phase.clkLo) ∧
      (n.toNat = 1 → f = .addr → t.ph = Phase.clkLo) ∧ (n.toNat = 1 → f = .data → t.ph = Phase.latHi) := by
  obtain ⟨m, _, hm, -, -, h2, rfl⟩ | ⟨m, _, hm, hfield, h1, -, rfl⟩ | ⟨m, hm, hfield, h1, rfl⟩ := execClkHi_cases h
  · cases hm.symm.trans hn
    exact ⟨fun _ => rfl, fun _ _ => rfl, fun _ _ => by omega⟩
  · cases hfield.symm.trans hf
    exact ⟨fun _ => rfl, fun _ _ => rfl, fun _ => nofun⟩
  · cases hm.symm.trans hn
    cases hfield.symm.trans hf
    exact ⟨fun _ => by omega, fun _ => nofun, fun _ _ => rfl⟩

end

/-- Settles O50, row by row of R90: each phase's step is one micro-operation, which writes its successor. -/
theorem phaseSuccessors : Obligations.PhaseSuccessors := by
  refine ⟨fun s t h => ?_, fun s h => sequencerStep_reserved (phaseReserved_iff.mpr h), fun s t h =>
    ⟨fun hph hv => ?idle, fun hph hv => ?accept, fun hph => ?latLoStart, fun hph => ?clkLo, fun hph => ?datSet,
      fun hph => ?shift, fun hph n f hn hf => ?clkHi, fun hph => ?latHi, fun hph => ?latHold, fun hph => ?latLoEnd⟩⟩
  · cases h
    exact resetAction_ph s
  case idle =>
    cases (sequencerStep_idle hph hv).symm.trans h
    exact hph
  case accept =>
    obtain ⟨_, _, -, -, rfl⟩ := execAccept_cases ((sequencerStep_accept hph hv).symm.trans h)
    rfl
  case latLoStart => cases (sequencerStep_latLoStart hph).symm.trans h; rfl
  case clkLo => cases (sequencerStep_clkLo hph).symm.trans h; rfl
  case datSet =>
    obtain ⟨_, -, rfl⟩ := execDatSet_cases ((sequencerStep_datSet hph).symm.trans h)
    rfl
  case shift =>
    obtain ⟨_, -, rfl⟩ := execShift_cases ((sequencerStep_shift hph).symm.trans h)
    rfl
  case clkHi => exact execClkHi_successor ((sequencerStep_clkHi hph).symm.trans h) hn hf
  case latHi => cases (sequencerStep_latHi hph).symm.trans h; rfl
  case latHold => cases (sequencerStep_latHold hph).symm.trans h; rfl
  case latLoEnd => cases (sequencerStep_latLoEnd hph).symm.trans h; rfl

end Sys2Proof.Machine

/-! SUPPORT. The latch holds of a trace (R88, R117). -/

namespace Sys2Proof.Machine

/-- The latch hold meets its premise, and so does every one in the trace (R88, R117): what every step keeps. -/
def State.HoldsMeetMinimum (s : State) : Prop := s.holdPremise ∧ ∀ k, Event.hold k ∈ s.trace → Config.tLatchHoldMin ≤ k

section
variable {s t : State}

/-- Events of which every hold is the state's own keep the minimum. -/
theorem State.HoldsMeetMinimum.append (h : s.HoldsMeetMinimum) (es : List Event) (ht : t.trace = s.trace ++ es)
    (hhold : t.tLatchHold = s.tLatchHold) (hes : ∀ k, Event.hold k ∈ es → k = s.tLatchHold) : t.HoldsMeetMinimum := by
  obtain ⟨hmin, htrace⟩ := h
  refine ⟨?_, fun k hk => ?_⟩
  · rwa [State.holdPremise, hhold]
  · rw [ht, List.mem_append] at hk
    obtain hk | hk := hk
    · exact htrace k hk
    · rw [hes k hk]
      exact hmin

/-- LAT_HOLD alone appends a hold, the state's own (R88). -/
theorem SequencerMove.holdsMeetMinimum (h : s.HoldsMeetMinimum) (m : SequencerMove s t) : t.HoldsMeetMinimum := by
  cases m with
  | idle _ _ e => cases e; exact h
  | accept _ _ e =>
    obtain ⟨a, d, -, -, rfl⟩ := execAccept_cases e
    exact h.append [.accept a d] rfl rfl (by simp)
  | latLoStart _ e => cases e; exact h.append [.write .latch false] rfl rfl (by simp)
  | clkLo _ e => cases e; exact h.append [.write .clock false] rfl rfl (by simp)
  | datSet _ e =>
    obtain ⟨v, -, rfl⟩ := execDatSet_cases e
    exact h.append [.write .data (currentLsb v)] rfl rfl (by simp)
  | shift _ e =>
    obtain ⟨v, -, rfl⟩ := execShift_cases e
    exact h
  | clkHi _ e =>
    obtain ⟨_, _, -, -, -, -, rfl⟩ | ⟨_, _, -, -, -, -, rfl⟩ | ⟨_, -, -, -, rfl⟩ := execClkHi_cases e <;>
      exact h.append [.write .clock true] rfl rfl (by simp)
  | latHi _ e => cases e; exact h.append [.write .latch true] rfl rfl (by simp)
  | latHold _ e => cases e; exact h.append [.hold s.tLatchHold] rfl rfl (by simp)
  | latLoEnd _ e => cases e; exact h.append [.write .latch false, .done] (by simp) rfl (by simp)

theorem runTurn_holdsMeetMinimum {turn : Turn} (h : s.HoldsMeetMinimum) (e : runTurn turn s = .next t) :
    t.HoldsMeetMinimum := by
  match turn with
  | .host =>
    obtain ⟨htrace, hhold⟩ := hostStep_trace_hold e
    exact h.append [] (by simp [htrace]) hhold (by simp)
  | .sequencer true => cases e; exact h.append [.reset] rfl rfl (by simp)
  | .sequencer false => exact (sequencerStep_move e).holdsMeetMinimum h

end

/-- Settles O55, by induction over what is reachable. -/
theorem everyLatchHoldMeetsTheMinimum : Obligations.EveryLatchHoldMeetsTheMinimum := by
  intro s k hs hk
  have hmin : s.HoldsMeetMinimum :=
    reachable_of_keeps (P := State.HoldsMeetMinimum)
      (fun _ _ _ ht => ⟨ht, by simp [State.launch, State.reset]⟩)
      (fun s t h e => runTurn_holdsMeetMinimum (s := s.turnTaken) h e) s hs
  obtain ⟨-, htrace⟩ := hmin
  exact htrace k hk

end Sys2Proof.Machine

/-! SUPPORT. How long a command takes, and the bit that each of its cells drives (R91, R93). -/

namespace Sys2Proof.Machine

section
variable {s t v : State}

/-- What a run of the sequencer did up to any of its steps. -/
theorem runSequencer_add_cases {j k : Nat} (h : runSequencer (j + k) s = .next v) :
    ∃ t, runSequencer j s = .next t ∧ runSequencer k t = .next v := by
  induction j generalizing s with
  | zero => exact ⟨s, rfl, by rwa [Nat.zero_add] at h⟩
  | succ j ih =>
    rw [Nat.succ_add] at h
    obtain ⟨u, hu, h⟩ := runSequencer_succ_cases h
    obtain ⟨t, ht, h⟩ := ih h
    exact ⟨t, by rw [runSequencer_succ hu, ht], h⟩

/-- The sequencer never fills the slot (R25). -/
theorem runSequencer_slotEmpty {k : Nat} (hv : s.cmdValid = false) (h : runSequencer k s = .next t) :
    t.cmdValid = false := by
  induction k generalizing s with
  | zero => cases h; exact hv
  | succ k ih =>
    obtain ⟨u, hu, h⟩ := runSequencer_succ_cases h
    obtain hsame | ⟨-, hempty, -⟩ := (sequencerStep_move hu).cmdValid
    · exact ih (hsame.trans hv) h
    · exact ih hempty h

/-- From an empty slot, a run that ends busy never was in IDLE: the sequencer would have stayed there (R80). -/
theorem runSequencer_ph_ne_idle {j k : Nat} {u : State} (hslot : u.cmdValid = false) (ht : runSequencer j u = .next t)
    (hv : runSequencer k t = .next v) (hbusy : v.ph ≠ Phase.idle) : t.ph ≠ Phase.idle := by
  intro hidle
  have hfree : t.slotFree = true := (slotFree_iff t).mpr ⟨runSequencer_slotEmpty hslot ht, hidle⟩
  cases (runSequencer_of_slotFree hfree k).symm.trans hv
  exact hbusy hidle

end

/-- Settles O34: ACCEPT empties the slot, and the 52nd step leads to LAT_LO_END, so none between them leads to IDLE. -/
theorem idleAgainInExactlyFiftyThreeSteps : Obligations.IdleAgainInExactlyFiftyThreeSteps := by
  intro s a d hph hv ha hd hconf k hk
  have haccept := accept_shows hph hv ha hd
  match k with
  | 0 => exact ⟨s, rfl, by simp [hph]⟩
  | j + 1 =>
    obtain rfl | hj : j = 52 ∨ j ≤ 51 := by omega
    · exact ⟨_, runSequencer_command hconf hph hv ha hd, by simp [State.withBlock]⟩
    · obtain ⟨es, hlast⟩ := runSequencer_toLatLoEnd hconf hph hv ha hd
      obtain ⟨r, hr⟩ := Nat.exists_eq_add_of_le hj
      rw [runSequencer_succ haccept, hr] at hlast
      obtain ⟨t, ht, hrest⟩ := runSequencer_add_cases hlast
      have hbusy : t.ph ≠ Phase.idle := runSequencer_ph_ne_idle rfl ht hrest (by simp [State.withBlock])
      exact ⟨t, (runSequencer_succ haccept).trans ht, by simp only [hbusy, false_iff]; omega⟩

/-! ### The bit of a cell -/

theorem iterate_shiftRightOne_getLsbD (v : Byte) (k i : Nat) :
    (shiftRightOne^[k] v).getLsbD i = v.getLsbD (i + k) := by
  induction k generalizing v with
  | zero => rfl
  | succ k ih => rw [Function.iterate_succ_apply, ih, shiftRightOne_getLsbD, Nat.add_assoc]

section
variable {s u : State} {v d : Byte} {f : Field}

/-- After `k` cells of a field and a CLK_LO, DAT_SET is due with `SR` shifted `k` times. -/
theorem runSequencer_toDatSet {k n : Nat} (hconf : s.pinsConfigured = true) (hn : n + k + 1 < 16)
    (hcount : ∀ m, m < n + k + 1 → countInRange f (BitVec.ofNat 4 (m + 1)) = true) :
    ∃ es, runSequencer (4 * k + 1) (s.withBlock v d f (n + k + 1) Phase.clkLo) =
      .next ((s.showing es).withBlock (shiftRightOne^[k] v) d f (n + 1) Phase.datSet) := by
  induction k generalizing s v with
  | zero => exact ⟨_, runSequencer_succ (clkLo_shows hconf)⟩
  | succ k ih =>
    have hcell := runSequencer_cell (v := v) (d := d) hconf
      fun _ hu => clkHi_within_shows (n := n + k) hu (hcount (n + k + 1) (by omega)) hn
    obtain ⟨es, hrun⟩ := ih (s := s.showing (cellEvents (currentLsb v))) (v := shiftRightOne v)
      (showing_configured hconf _) (by omega) fun m hm => hcount m (by omega)
    rw [showing_showing] at hrun
    exact ⟨_, by rw [show 4 * (k + 1) + 1 = 4 + (4 * k + 1) by omega]; exact (runSequencer_add hcell).trans hrun⟩

/-- The `k`-th cell of a field of `c` bits that starts after `j` steps: at its DAT_SET, `SR[0]` is bit `k` of the value
that the field sends, which is the frame's bit `b`, and that is the bit driven (R84, R93). -/
theorem cell_drivesBit {c j k m : Nat} {b : Bool} (hb : b = v.getLsbD k)
    (hstart : runSequencer j s = .next (u.withBlock v d f c Phase.clkLo)) (hconf : u.pinsConfigured = true)
    (hk : k < c) (hc : c < 16) (hcount : ∀ i, i < c → countInRange f (BitVec.ofNat 4 (i + 1)) = true)
    (hm : j + (4 * k + 1) = m) :
    ∃ t w x, runSequencer m s = .next t ∧ t.ph = Phase.datSet ∧ t.sr = .val w ∧ w.getLsbD 0 = v.getLsbD k ∧
      b = v.getLsbD k ∧ exec .datSet t = .next x ∧ x.trace = t.trace ++ [.write .data b] := by
  obtain ⟨n, rfl⟩ : ∃ n, c = n + k + 1 := ⟨c - k - 1, by omega⟩
  obtain ⟨es, hrun⟩ := runSequencer_toDatSet (v := v) (d := d) hconf hc hcount
  have hbit : currentLsb (shiftRightOne^[k] v) = v.getLsbD k := by
    rw [currentLsb, iterate_shiftRightOne_getLsbD, Nat.zero_add]
  rw [← hm, hb, ← hbit]
  exact ⟨_, _, _, (runSequencer_add hstart).trans hrun, rfl, rfl, rfl, rfl, execDatSet_eq rfl, rfl⟩

end

theorem frameBit_addr (a d : Byte) {k : Nat} (hk : k ≤ 3) : frameBit a d k = a.getLsbD k := by simp [frameBit, hk]

theorem frameBit_data (a d : Byte) (k : Nat) : frameBit a d (4 + k) = d.getLsbD k := by
  rw [frameBit, if_neg (by omega), Nat.add_sub_cancel_left]

/-- Settles O35: the address field starts after 2 steps, and the data field 16 steps later. -/
theorem eachCellDrivesItsBit : Obligations.EachCellDrivesItsBit := by
  intro s a d hph hv ha hd hconf
  have hconf' := showing_configured hconf
  have haddr : runSequencer 2 s =
      .next ((s.showing [.accept a d, .write .latch false]).withBlock a d .addr 4 Phase.clkLo) := by
    rw [runSequencer_succ (accept_shows hph hv ha hd), runSequencer_succ (latLoStart_shows (hconf' _)), showing_showing]
    rfl
  have hdata := (runSequencer_add haddr).trans (runSequencer_addrField (hconf' _))
  rw [showing_showing] at hdata
  exact
    ⟨fun k hk => cell_drivesBit (frameBit_addr a d hk) haddr (hconf' _) (by omega) (by decide) (by decide) (by omega),
      fun k hk => cell_drivesBit (frameBit_data a d k) hdata (hconf' _) (by omega) (by decide) (by decide) (by omega)⟩

end Sys2Proof.Machine

/-! SUPPORT. The model faults (R98): which operation raises which, and when a sequencer step does. -/

namespace Sys2Proof.Machine

section
variable {s : State} {f : Fault}

/-! ### The operations that read a register -/

/-- A read faults on `⊥`, or what it goes on to does (R11). -/
theorem readReg_fault {α : Type} {r : Reg α} {k : α → Result} :
    readReg r k = .fault f ↔ (f = .readUndefined ∧ r = .undef) ∨ ∃ a, r = .val a ∧ k a = .fault f := by
  cases r <;> simp [eq_comm]

theorem execAccept_fault :
    execAccept s = .fault f ↔ f = .readUndefined ∧ (s.cmdAddr = .undef ∨ s.cmdData = .undef) := by
  cases ha : s.cmdAddr <;> cases hd : s.cmdData <;> simp [execAccept, ha, hd, eq_comm]

theorem execDatSet_fault : execDatSet s = .fault f ↔ f = .readUndefined ∧ s.sr = .undef := by
  simp [execDatSet, readReg_fault]

theorem execShift_fault : execShift s = .fault f ↔ f = .readUndefined ∧ s.sr = .undef := by
  simp [execShift, readReg_fault]

/-- Within the range of its field a count below 2 is the last one. -/
theorem eq_one_of_countInRange {g : Field} {n : Nibble} (hr : countInRange g n = true) (h2 : ¬2 ≤ n.toNat) : n = 1 := by
  have h1 : 1 ≤ n.toNat := by obtain ⟨-, h, -⟩ | ⟨-, h, -⟩ := countInRange_iff.mp hr <;> exact h
  bv_omega

/-- In range CLK_HI faults at the field switch only, where it reads `DREG` (R86, log 13). -/
theorem execClkHi_fault_inRange {g : Field} {n : Nibble} (hn : s.cnt = .val n) (hg : s.fld = .val g)
    (hr : countInRange g n = true) :
    execClkHi s = .fault f ↔ f = .readUndefined ∧ n = 1 ∧ g = .addr ∧ s.dreg = .undef := by
  by_cases h2 : 2 ≤ n.toNat
  · have hne : n ≠ 1#4 := by rintro rfl; exact absurd h2 (by decide)
    simp [execClkHi_within hn hg hr h2, hne]
  · obtain rfl := eq_one_of_countInRange hr h2
    cases g with
    | addr =>
      cases hd : s.dreg with
      | val d => simp [execClkHi_switch hn hg rfl hd]
      | undef => simp [execClkHi, hn, hg, hd, countInRange, @eq_comm _ f]
    | data => simp [execClkHi_end hn hg rfl]

/-- CLK_HI faults on `⊥` in a register it reads, and on a count outside the range of its field (R86). -/
theorem execClkHi_fault :
    execClkHi s = .fault f ↔
      (f = .readUndefined ∧ (s.cnt = .undef ∨ s.fld = .undef ∨
        (s.cnt = .val 1 ∧ s.fld = .val .addr ∧ s.dreg = .undef))) ∨
      (f = .counterOutOfRange ∧ ∃ n g, s.cnt = .val n ∧ s.fld = .val g ∧ countInRange g n = false) := by
  cases hn : s.cnt with
  | undef => simp [execClkHi, hn, @eq_comm _ f]
  | val n =>
    cases hg : s.fld with
    | undef => simp [execClkHi, hn, hg, @eq_comm _ f]
    | val g =>
      cases hr : countInRange g n with
      | true => simp [execClkHi_fault_inRange hn hg hr, hr]
      | false =>
        have hswitch : n = 1#4 → g ≠ .addr := by rintro rfl rfl; exact absurd hr (by decide)
        have hout := (execClkHi_outOfRange s).mpr ⟨n, g, hn, hg, hr⟩
        simp +contextual [hout, hr, hswitch, @eq_comm _ f]

/-! ### Which operations fault at all -/

theorem execSend_ne_fault (a d : Byte) : execSend a d s ≠ .fault f := by
  unfold execSend
  split
  · split <;> simp
  · simp

/-- Only an operation that reads a register faults, and one other than CLK_HI only on reading `⊥` (R98). -/
theorem exec_fault {i : Instr} (h : exec i s = .fault f) : f = .readUndefined ∨ i = .clkHi := by
  cases i with
  | send a d => exact absurd h (execSend_ne_fault a d)
  | accept => exact .inl (execAccept_fault.mp h).1
  | datSet => exact .inl (execDatSet_fault.mp h).1
  | shift => exact .inl (execShift_fault.mp h).1
  | clkHi => exact .inr rfl
  | idle | latLoStart | clkLo | latHi | latHold | latLoEnd => cases h

/-! ### The sequencer's step -/

/-- A sequencer step faults for its reserved phase code, or as the micro-operation of its phase does (R64, R79). -/
theorem sequencerStep_fault :
    sequencerStep false s = .fault f ↔
      (f = .reservedPhase ∧ phaseReserved s.ph = true) ∨
      (s.ph = Phase.idle ∧ s.cmdValid = true ∧ execAccept s = .fault f) ∨
      (s.ph = Phase.datSet ∧ execDatSet s = .fault f) ∨
      (s.ph = Phase.shift ∧ execShift s = .fault f) ∨
      (s.ph = Phase.clkHi ∧ execClkHi s = .fault f) := by
  obtain hph | hph | hph | hph | hph | hph | hph | hph | hph | hr := phase_cases s.ph
  · cases hv : s.cmdValid with
    | false => simp [sequencerStep_idle hph hv, execIdle, hph, phaseReserved]
    | true => simp [sequencerStep_accept hph hv, hph, phaseReserved]
  · simp [sequencerStep_latLoStart hph, execLatLoStart, hph, phaseReserved]
  · simp [sequencerStep_clkLo hph, execClkLo, hph, phaseReserved]
  · simp [sequencerStep_datSet hph, hph, phaseReserved]
  · simp [sequencerStep_shift hph, hph, phaseReserved]
  · simp [sequencerStep_clkHi hph, hph, phaseReserved]
  · simp [sequencerStep_latHi hph, execLatHi, hph, phaseReserved]
  · simp [sequencerStep_latHold hph, execLatHold, hph, phaseReserved]
  · simp [sequencerStep_latLoEnd hph, execLatLoEnd, hph, phaseReserved]
  · have hne : ∀ ph, phaseReserved ph = false → s.ph ≠ ph := by
      rintro ph hfalse rfl
      simp [hr] at hfalse
    simp [sequencerStep_reserved hr, hr, hne Phase.idle rfl, hne Phase.datSet rfl, hne Phase.shift rfl,
      hne Phase.clkHi rfl, @eq_comm _ f]

/-- R64: the fault of a reserved phase code is raised on nothing else. -/
theorem sequencerStep_reservedPhase : sequencerStep false s = .fault .reservedPhase ↔ phaseReserved s.ph = true := by
  simp [sequencerStep_fault, execAccept_fault, execDatSet_fault, execShift_fault, execClkHi_fault]

theorem sequencerStep_counterOutOfRange :
    sequencerStep false s = .fault .counterOutOfRange ↔
      s.ph = Phase.clkHi ∧ ∃ n g, s.cnt = .val n ∧ s.fld = .val g ∧ countInRange g n = false := by
  simp [sequencerStep_fault, execAccept_fault, execDatSet_fault, execShift_fault, execClkHi_fault]

theorem sequencerStep_readUndefined :
    sequencerStep false s = .fault .readUndefined ↔
      (s.ph = Phase.idle ∧ s.cmdValid = true ∧ (s.cmdAddr = .undef ∨ s.cmdData = .undef)) ∨
      ((s.ph = Phase.datSet ∨ s.ph = Phase.shift) ∧ s.sr = .undef) ∨
      (s.ph = Phase.clkHi ∧ (s.cnt = .undef ∨ s.fld = .undef ∨
        (s.cnt = .val 1 ∧ s.fld = .val .addr ∧ s.dreg = .undef))) := by
  simp [sequencerStep_fault, execAccept_fault, execDatSet_fault, execShift_fault, execClkHi_fault, or_and_right,
    or_assoc]

end

/-! ### The order of the agents (R100) -/

/-- A command posted in IDLE is taken by the next sequencer step (R25, R81). -/
theorem sequencerStep_postCommand {s : State} (a d : Byte) (hph : s.ph = Phase.idle) :
    ∃ t, sequencerStep false (s.postCommand a d) = .next t ∧ t.trace = s.trace ++ [.accept a d] :=
  ⟨_, (sequencerStep_accept (s := s.postCommand a d) hph rfl).trans (execAccept_eq rfl rfl), rfl⟩

/-- Settles O12: the reset is tested first, the decoder refuses reserved codes, and a sequencer step with a free slot
is IDLE, which leaves the state in which the host writes. -/
theorem resetAndDecodePriorities : Obligations.ResetAndDecodePriorities := by
  refine ⟨fun _ => sequencerStep_rst, fun _ => sequencerStep_reservedPhase, fun i s h => ?_,
    fun s c rest hfree hw hconf hprog => ?_⟩
  · exact (exec_fault h).resolve_left (by simp)
  · obtain ⟨hv, hph⟩ := (slotFree_iff s).mp hfree
    have hidle : runTurn (.sequencer false) s = .next s := sequencerStep_idle hph hv
    have hwrite : runTurn .host s = .next (s.postCommand c.addr c.data) :=
      (hostStep_command hconf hprog).trans (execSend_post hfree hw)
    obtain ⟨t, ht, htrace⟩ := sequencerStep_postCommand c.addr c.data hph
    have haccept : runTurn (.sequencer false) (s.postCommand c.addr c.data) = .next t := ht
    have hrun : runTurns [.host, .sequencer false] s = .next t := by
      rw [runTurns_cons_next hwrite, runTurns_cons_next haccept, runTurns_nil]
    exact ⟨t, hrun, (runTurns_cons_next hidle).trans hrun, htrace⟩

end Sys2Proof.Machine

/-! SUPPORT. From the invariant every turn has an answer, so no reachable state faults (R96, R98, R112). -/

namespace Sys2Proof.Machine

section
variable {s : State}

theorem hostStep_answers : ∃ t, hostStep s = .next t := by
  obtain ⟨-, e⟩ | ⟨_, _, -, -, -, -, e⟩ | ⟨_, _, -, -, -, -, e⟩ | ⟨-, -, e⟩ := hostStep_cases s <;> exact ⟨_, e⟩

/-- The count of a bit cell is in range (R30), and `DREG` holds a value for the field switch. -/
theorem execClkHi_answers (h : s.Inv) (hph : s.ph = Phase.clkHi) : ∃ t, execClkHi s = .next t := by
  obtain ⟨f, n, hf, hn, hrange⟩ := h.rule.cellCount (.inr (.inr (.inr hph)))
  obtain ⟨-, d, -, hd⟩ := h.working (by simp [hph])
  have hr : countInRange f n = true := countInRange_iff.mpr hrange
  by_cases h2 : 2 ≤ n.toNat
  · exact ⟨_, execClkHi_within hn hf hr h2⟩
  · obtain rfl := eq_one_of_countInRange hr h2
    cases f with
    | addr => exact ⟨_, execClkHi_switch hn hf rfl hd⟩
    | data => exact ⟨_, execClkHi_end hn hf rfl⟩

/-- The registers that the micro-operation of the phase reads hold values (R112). -/
theorem sequencerStep_answers (h : s.Inv) : ∃ t, sequencerStep false s = .next t := by
  obtain hph | hph | hph | hph | hph | hph | hph | hph | hph | hr := phase_cases s.ph
  · cases hv : s.cmdValid with
    | false => exact ⟨_, sequencerStep_idle hph hv⟩
    | true =>
      obtain ⟨a, d, ha, hd⟩ := h.slotArgs hv
      exact ⟨_, (sequencerStep_accept hph hv).trans (execAccept_eq ha hd)⟩
  · exact ⟨_, sequencerStep_latLoStart hph⟩
  · exact ⟨_, sequencerStep_clkLo hph⟩
  · obtain ⟨v, -, hv, -⟩ := h.working (by simp [hph])
    exact ⟨_, (sequencerStep_datSet hph).trans (execDatSet_eq hv)⟩
  · obtain ⟨v, -, hv, -⟩ := h.working (by simp [hph])
    exact ⟨_, (sequencerStep_shift hph).trans (execShift_eq hv)⟩
  · rw [sequencerStep_clkHi hph]
    exact execClkHi_answers h hph
  · exact ⟨_, sequencerStep_latHi hph⟩
  · exact ⟨_, sequencerStep_latHold hph⟩
  · exact ⟨_, sequencerStep_latLoEnd hph⟩
  · exact absurd hr (by simp [h.rule.notReserved])

theorem runTurn_answers (h : s.Inv) (turn : Turn) : ∃ t, runTurn turn s = .next t := by
  match turn with
  | .host => exact hostStep_answers
  | .sequencer true => exact ⟨_, sequencerStep_rst⟩
  | .sequencer false => exact sequencerStep_answers h

end

/-- Settles O46: whichever agent's turn is due, it has an answer. -/
theorem invariantStatesAlwaysStep : Obligations.InvariantStatesAlwaysStep :=
  fun s h => runTurn_answers h.turnTaken s.nextTurn

/-- Settles O48: the faults by phase, none of them from the invariant, and a run stops at the step that faults. -/
theorem modelFaultsAndTheirConditions : Obligations.ModelFaultsAndTheirConditions := by
  refine ⟨fun s => sequencerStep_reservedPhase.trans phaseReserved_iff, fun s => ?_,
    fun s => sequencerStep_readUndefined, fun s f hs h => ?_, fun s f k h => runSteps_succ_fault h⟩
  · simp only [sequencerStep_counterOutOfRange, ← countInRange_iff, Bool.not_eq_true]
  · obtain ⟨t, ht⟩ := invariantStatesAlwaysStep s (inv_of_reachable hs)
    cases ht.symm.trans h

end Sys2Proof.Machine

/-! SUPPORT. The reset action: what it leaves in the block and outside it (R111, R113). -/

namespace Sys2Proof.Machine

/-- Settles O10: the step is the reset action, and a step whose turn it is only takes the turn off the schedule before. -/
theorem resetActionFromEveryState : Obligations.ResetActionFromEveryState := by
  intro s
  refine ⟨s.resetAction, sequencerStep_rst, rfl, rfl, rfl, rfl, rfl, rfl, rfl, rfl, rfl, rfl, rfl, rfl, rfl,
    fun hnil => ?_, fun hturn => ?_⟩
  · rw [resetAction_trace, hnil, List.nil_append]
  · rw [step_eq, hturn, runTurn_sequencer, sequencerStep_rst]
    rfl

/-- Settles O11: the reset action writes no receiver, and drops the head of the host's program if its call is waiting. -/
theorem resetKeepsReceiverAndDropsTheCall : Obligations.ResetKeepsReceiverAndDropsTheCall := by
  intro s
  exact ⟨s.resetAction, sequencerStep_rst, ⟨rfl, rfl⟩, rfl, rfl, fun hw => by simp [hw], fun hw => by simp [hw], rfl, rfl⟩

end Sys2Proof.Machine

/-! SUPPORT. The sequencer's progress while there is a command (R123). -/

namespace Sys2Proof.Machine

section
variable {s t : State}

/-- While a command waits or is in progress a sequencer step leads to another phase (R90). -/
theorem SequencerMove.ph_ne (m : SequencerMove s t) (hcommand : s.ph ≠ Phase.idle ∨ s.cmdValid = true) :
    t.ph ≠ s.ph := by
  cases m with
  | idle hph hv => simp [hph, hv] at hcommand
  | accept hph _ e =>
    obtain ⟨a, d, -, -, rfl⟩ := execAccept_cases e
    simp [hph]
  | datSet hph e =>
    obtain ⟨v, -, rfl⟩ := execDatSet_cases e
    simp [hph]
  | shift hph e =>
    obtain ⟨v, -, rfl⟩ := execShift_cases e
    simp [hph]
  | clkHi hph e => obtain h | h := execClkHi_ph e <;> simp [hph, h]
  | latLoStart hph e | clkLo hph e | latHi hph e | latHold hph e | latLoEnd hph e =>
    cases e
    simp [hph]

/-- With the boot premise in force and the slot not free, the default turn is the sequencer's (log 2). -/
theorem nextTurn_sequencer (hsched : s.schedule = []) (hconf : s.pinsConfigured = true) (htaken : s.slotFree = false) :
    s.nextTurn = .sequencer false := by
  simp [State.nextTurn, hsched, State.defaultTurn, State.hostReady, hconf, htaken]

end

/-- Settles O56: the step that the invariant gives leads to another phase, and the slot is not free. -/
theorem sequencerProgress : Obligations.SequencerProgress := by
  intro s hinv hcommand
  obtain ⟨t, ht⟩ := sequencerStep_answers hinv
  have hph : t.ph ≠ s.ph := (sequencerStep_move ht).ph_ne hcommand
  have htaken : s.slotFree = false := by
    rw [Bool.eq_false_iff]
    intro hfree
    obtain ⟨hv, hidle⟩ := (slotFree_iff s).mp hfree
    simp [hv, hidle] at hcommand
  exact ⟨⟨t, ht, fun h => hph (congrArg State.ph h)⟩,
    fun hsched => nextTurn_sequencer hsched (hinv.configured hcommand) htaken⟩

end Sys2Proof.Machine

/-! SUPPORT. A receiver of whose registers nothing is said stays one, and a SEND that finds samples makes one (R40, R113). -/

namespace Sys2Proof.Machine

@[simp] theorem RecvRegs.unspecified_commit (samples : List Level) : RecvRegs.unspecified.commit samples = .unspecified := by
  unfold RecvRegs.commit
  split
  · rfl
  · split
    · split <;> rfl
    · rfl

theorem Receiver.onClock_unspecified {r : Receiver} (h : r.regs = .unspecified) (edge : Seen) (dat : Level) :
    (r.onClock edge dat).regs = .unspecified := by
  cases edge with
  | yes | no => exact h
  | maybe => rfl

theorem Receiver.onLatch_unspecified {r : Receiver} (h : r.regs = .unspecified) (edge : Seen) :
    (r.onLatch edge).regs = .unspecified := by
  cases edge with
  | yes => simp [h]
  | no => exact h
  | maybe =>
    by_cases hnil : r.samples = []
    · rw [onLatch_maybe_nil r hnil, h]
    · simp [Receiver.onLatch, hnil]

section
variable {o : Observation} {e : CommitEdge}

theorem Observation.drive_unspecified (h : o.recv.regs = .unspecified) (p : Pin) (l : Level) :
    (o.drive e p l).recv.regs = .unspecified := by
  cases p with
  | clock => exact Receiver.onClock_unspecified h _ _
  | data => exact h
  | latch => exact Receiver.onLatch_unspecified h _

theorem Observation.event_unspecified (h : o.recv.regs = .unspecified) (ev : Event) :
    (Observation.event e o ev).recv.regs = .unspecified := by
  cases ev with
  | write p b => exact drive_unspecified h p _
  | accept _ _ | hold _ | done | reset => exact h

theorem Observation.events_unspecified (h : o.recv.regs = .unspecified) (es : List Event) :
    (o.events e es).recv.regs = .unspecified := by
  induction es generalizing o with
  | nil => exact h
  | cons ev es ih => exact ih (event_unspecified h ev)

end

/-! ### Whatever the step -/

section
variable {s t : State}

/-- A sequencer step leaves the receivers, or does to them what one pin write does (R46). -/
theorem SequencerMove.receivers (m : SequencerMove s t) :
    SameReceivers s t ∨ ∃ p b, SameReceivers (s.pinWrite p b) t := by
  cases m with
  | idle _ _ e | latHold _ e => cases e; exact .inl ⟨rfl, rfl⟩
  | accept _ _ e =>
    obtain ⟨a, d, -, -, rfl⟩ := execAccept_cases e
    exact .inl ⟨rfl, rfl⟩
  | shift _ e =>
    obtain ⟨v, -, rfl⟩ := execShift_cases e
    exact .inl ⟨rfl, rfl⟩
  | datSet _ e =>
    obtain ⟨v, -, rfl⟩ := execDatSet_cases e
    exact .inl ⟨rfl, rfl⟩
  | clkHi _ e =>
    obtain ⟨_, _, -, -, -, -, rfl⟩ | ⟨_, _, -, -, -, -, rfl⟩ | ⟨_, -, -, -, rfl⟩ := execClkHi_cases e <;>
      exact .inr ⟨.clock, true, rfl, rfl⟩
  | latLoStart _ e | latLoEnd _ e => cases e; exact .inr ⟨.latch, false, rfl, rfl⟩
  | clkLo _ e => cases e; exact .inr ⟨.clock, false, rfl, rfl⟩
  | latHi _ e => cases e; exact .inr ⟨.latch, true, rfl, rfl⟩

theorem SameReceivers.receiver (h : SameReceivers s t) (e : CommitEdge) : t.receiver e = s.receiver e := by
  obtain ⟨hrise, hfall⟩ := h
  cases e with
  | rise => exact hrise
  | fall => exact hfall

theorem pinWrite_receiver (p : Pin) (b : Bool) (e : CommitEdge) :
    (s.pinWrite p b).receiver e = ((s.observed e).drive e p (s.drivenLevel b)).recv := by cases e <;> rfl

/-- No turn of either agent says anything of the registers again (R40). -/
theorem runTurn_unspecified {turn : Turn} {e : CommitEdge} (h : runTurn turn s = .next t)
    (hregs : (s.receiver e).regs = .unspecified) : (t.receiver e).regs = .unspecified := by
  match turn with
  | .host =>
    obtain ⟨-, hobs⟩ := hostStep_shows h
    rw [← observed_recv, hobs e]
    exact hregs
  | .sequencer true => cases h; cases e <;> exact hregs
  | .sequencer false =>
    obtain hsame | ⟨p, b, hsame⟩ := (sequencerStep_move h).receivers
    · rw [hsame.receiver, hregs]
    · rw [hsame.receiver, pinWrite_receiver]
      exact Observation.drive_unspecified hregs p _

end

/-! ### A SEND that finds samples -/

section
variable {o : Observation}

/-- The receiver that commits on rising edges sees LATCH fall or stay low first, and then counts more than twelve samples. -/
theorem events_frameEvents_leftover_rise (t : Nat) (a d : Byte) (hsamples : o.recv.samples ≠ []) :
    (o.events .rise (frameEvents t a d)).recv.regs = .unspecified := by
  obtain ⟨hlat, hrecv⟩ := events_cells (o := { o with lat := .lo }) (e := .rise) (frame a d)
  have hstart : Observation.event .rise o (.write .latch false) = { o with lat := .lo } := by
    simp [Observation.event, Observation.drive, CommitEdge.seenIn]
  rw [frameEvents_eq, Observation.events_cons, Observation.events_cons,
    show Observation.event .rise o (.accept a d) = o from rfl, hstart, Observation.events_append, frameCells,
    events_latchPulse t hlat, hrecv, Receiver.onLatch_yes]
  exact RecvRegs.commit_unspecified (by simp [hsamples]) (by simp [hsamples])

/-- For the receiver that commits on falling edges the first LATCH write may be one, from the level `X` (log 9). -/
theorem events_frameEvents_leftover_fall (t : Nat) (a d : Byte) (hlat : o.lat = .x) (hsamples : o.recv.samples ≠ []) :
    (o.events .fall (frameEvents t a d)).recv.regs = .unspecified := by
  have hstart : (Observation.event .fall o (.write .latch false)).recv.regs = .unspecified := by
    simp [Observation.event, Observation.drive, CommitEdge.seenIn, hlat, falling, Receiver.onLatch, hsamples]
  rw [frameEvents_eq, Observation.events_cons, Observation.events_cons]
  exact Observation.events_unspecified hstart _

end

/-- Settles O43: the leftover samples make the frame's count wrong or the first LATCH write a possible commit, and no turn
makes unspecified registers known. -/
theorem leftoverSamplesLeaveTheRegistersUnspecified : Obligations.LeftoverSamplesLeaveTheRegistersUnspecified := by
  refine ⟨fun s a d e hph hv ha hd hconf hlat hsamples => ?_, fun s t e h hregs k => ?_⟩
  · have hrun := runSequencer_command hconf hph hv ha hd
    have hunspecified : ((s.observed e).events e (frameEvents s.tLatchHold a d)).recv.regs = .unspecified := by
      cases e with
      | rise => exact events_frameEvents_leftover_rise _ a d hsamples
      | fall => exact events_frameEvents_leftover_fall _ a d hlat hsamples
    rw [sendEvents_eq_frameEvents] at hrun
    refine ⟨_, hrun, fun k => ?_⟩
    obtain ⟨-, hobs⟩ := showing_withBlock_shows (s := s) (frameEvents s.tLatchHold a d) 0 d .data 0 Phase.idle
    rw [← observed_recv, hobs e, hunspecified, RecvRegs.read_unspecified]
  · have hstep : (t.receiver e).regs = .unspecified :=
      runTurn_unspecified (s := s.turnTaken) h (by cases e <;> exact hregs)
    rw [hstep, RecvRegs.read_unspecified]

end Sys2Proof.Machine

/-! SUPPORT. A reset during a command: how far its frame has come after each of its steps, and what the receivers then hold
(R113). -/

namespace Sys2Proof.Machine

/-- A command waits in the slot, and the pins are outputs. -/
structure State.CommandDue (s : State) (a d : Byte) : Prop where
  idle : s.ph = Phase.idle
  waiting : s.cmdValid = true
  addr : s.cmdAddr = .val a
  data : s.cmdData = .val d
  configured : s.pinsConfigured = true

/-- Where the cell after `c` whole ones of a frame stands: its field, and the field's cells from it on (R18, R19). -/
def CellDue (c : Nat) (f : Field) (n : Nat) : Prop :=
  1 ≤ n ∧ (f = .addr ∧ n + c = 4 ∨ f = .data ∧ n + c = 12 ∧ n ≤ 8)

/-- The events of a command up to the end of a cell of its frame, the cells of `bits` being whole. -/
def frameStart (a d : Byte) (bits : List Bool) : List Event :=
  .accept a d :: .write .latch false :: bits.flatMap cellEvents

theorem CellDue.inRange {c n : Nat} {f : Field} (h : CellDue c f n) : countInRange f (BitVec.ofNat 4 n) = true := by
  obtain ⟨hpos, hfield⟩ := h
  have hn : (BitVec.ofNat 4 n).toNat = n := by
    rw [BitVec.toNat_ofNat]
    exact Nat.mod_eq_of_lt (by omega)
  rw [countInRange_iff, hn]
  exact hfield.imp (fun ⟨hf, hc⟩ => ⟨hf, hpos, by omega⟩) (fun ⟨hf, _, hle⟩ => ⟨hf, hpos, hle⟩)

section
variable {s t v : State} {a d w : Byte} {k : Nat}

/-! ### How far the frame has come -/

theorem showing_nil : s.showing [] = s := by simp [State.showing]

/-- CLK_HI leads from each cell but the twelfth to the next one (R86). -/
theorem clkHi_nextCell {c n : Nat} {f : Field} (hdue : CellDue c f n) (hc : c < 11) : ∃ w' f' n', CellDue (c + 1) f' n' ∧
    ∀ u : State, u.pinsConfigured = true → sequencerStep false (u.withBlock w d f n Phase.clkHi) =
      .next ((u.showing [.write .clock true]).withBlock w' d f' n' Phase.clkLo) := by
  have hrange := hdue.inRange
  obtain ⟨hpos, hfield⟩ := hdue
  match n with
  | 1 =>
    obtain ⟨rfl, hn⟩ | ⟨-, hn, -⟩ := hfield
    · exact ⟨d, .data, 8, ⟨by omega, .inr ⟨rfl, by omega, le_rfl⟩⟩, fun u hu => clkHi_switch_shows hu⟩
    · omega
  | m + 2 =>
    refine ⟨w, f, m + 1, ⟨by omega, ?_⟩, fun u hu => clkHi_within_shows hu hrange (by omega)⟩
    exact hfield.imp (fun ⟨hf, hn⟩ => ⟨hf, by omega⟩) (fun ⟨hf, hn, hle⟩ => ⟨hf, by omega, by omega⟩)

theorem runSequencer_toFrame (h : s.CommandDue a d) :
    runSequencer 2 s = .next ((s.showing (frameStart a d [])).withBlock a d .addr 4 Phase.clkLo) := by
  rw [runSequencer_succ (accept_shows h.idle h.waiting h.addr h.data),
    runSequencer_succ (latLoStart_shows (showing_configured h.configured _)), showing_showing]
  rfl

theorem frameStart_append_cells (bits bits' : List Bool) :
    frameStart a d bits ++ bits'.flatMap cellEvents = frameStart a d (bits ++ bits') := by simp [frameStart]

/-- Four steps a cell: after `2 + 4 * c` steps the cell after `c` whole ones begins (R91, R93). -/
theorem runSequencer_toCell (h : s.CommandDue a d) {c : Nat} (hc : c ≤ 11) : ∃ bits w f n, bits.length = c ∧ CellDue c f n ∧
    runSequencer (2 + 4 * c) s = .next ((s.showing (frameStart a d bits)).withBlock w d f n Phase.clkLo) := by
  induction c with
  | zero => exact ⟨[], a, .addr, 4, rfl, ⟨by omega, .inl ⟨rfl, rfl⟩⟩, runSequencer_toFrame h⟩
  | succ c ih =>
    obtain ⟨bits, w, f, n, hbits, hdue, hrun⟩ := ih (by omega)
    obtain ⟨w', f', n', hdue', hclkHi⟩ := clkHi_nextCell (w := shiftRightOne w) (d := d) hdue (by omega)
    refine ⟨bits ++ [currentLsb w], w', f', n', by simp [hbits], hdue', ?_⟩
    rw [show 2 + 4 * (c + 1) = (2 + 4 * c) + 4 by omega, runSequencer_add hrun,
      runSequencer_cell (showing_configured h.configured _) hclkHi, showing_showing, ← frameStart_append_cells,
      List.flatMap_singleton]

/-- The steps of a cell before its CLK_HI show its first two events, SHIFT showing none (R83 to R85). -/
theorem runSequencer_inCell {f : Field} {n r : Nat} (hconf : s.pinsConfigured = true) (hr : r < 4) : ∃ w' ph,
    runSequencer r (s.withBlock w d f n Phase.clkLo) =
      .next ((s.showing ((cellEvents (currentLsb w)).take (min r 2))).withBlock w' d f n ph) := by
  have hclkLo := clkLo_shows (v := w) (d := d) (f := f) (n := n) hconf
  have hdatSet := datSet_shows (v := w) (d := d) (f := f) (n := n) (showing_configured hconf [.write .clock false])
  rw [showing_showing] at hdatSet
  match r with
  | 0 => exact ⟨w, Phase.clkLo, by rw [Nat.zero_min, List.take_zero, showing_nil]; rfl⟩
  | 1 => exact ⟨w, Phase.datSet, runSequencer_succ hclkLo⟩
  | 2 => exact ⟨w, Phase.shift, (runSequencer_succ hclkLo).trans (runSequencer_succ hdatSet)⟩
  | 3 =>
    exact ⟨shiftRightOne w, Phase.clkHi,
      (runSequencer_succ hclkLo).trans ((runSequencer_succ hdatSet).trans (runSequencer_succ shift_shows))⟩

/-- After the twelfth cell the whole frame is shown, and LAT_HI is due. -/
theorem runSequencer_toLatHi (h : s.CommandDue a d) : runSequencer 50 s =
    .next ((s.showing (frameStart a d (frame a d))).withBlock 0 d .data 0 Phase.latHi) := by
  have hconf' := showing_configured h.configured
  have hcells : bitCells 4 a ++ bitCells 8 d = frameCells a d := by
    rw [bitCells_eq, bitCells_eq, ← List.flatMap_append, frameCells, frame_eq]
    rfl
  rw [show 50 = 2 + (16 + 32) from rfl, runSequencer_add (runSequencer_toFrame h),
    runSequencer_add (runSequencer_addrField (hconf' _)), showing_showing, runSequencer_dataField (hconf' _),
    showing_showing, List.append_assoc, hcells, frameCells, frameStart_append_cells, List.nil_append]

/-- Up to LAT_HI, `k` steps of a command show `(k - 2) / 4` whole cells, and the next one up to its CLK_HI (R113). -/
theorem runSequencer_inFrame (h : s.CommandDue a d) (hk : 2 ≤ k) (hk' : k ≤ 50) : ∃ v bits b j, runSequencer k s = .next v ∧
    bits.length = (k - 2) / 4 ∧ j ≤ 2 ∧ s.Shows (frameStart a d bits ++ (cellEvents b).take j) v := by
  obtain rfl | hlt : k = 50 ∨ k < 50 := by omega
  · refine ⟨_, frame a d, false, 0, runSequencer_toLatHi h, frame_length a d, by omega, ?_⟩
    rw [List.take_zero, List.append_nil]
    exact showing_withBlock_shows _ 0 d .data 0 _
  · obtain ⟨c, r, rfl, hr⟩ : ∃ c r, k = (2 + 4 * c) + r ∧ r < 4 :=
      ⟨(k - 2) / 4, (k - 2) % 4, by omega, by omega⟩
    obtain ⟨bits, w, f, n, hbits, -, hcell⟩ := runSequencer_toCell h (c := c) (by omega)
    obtain ⟨w', ph, hpart⟩ := runSequencer_inCell (w := w) (d := d) (f := f) (n := n)
      (showing_configured h.configured (frameStart a d bits)) hr
    rw [showing_showing] at hpart
    exact ⟨_, bits, currentLsb w, min r 2, (runSequencer_add hcell).trans hpart, by omega, by omega,
      showing_withBlock_shows _ w' d f n ph⟩

/-- After LAT_HI, and after LAT_HOLD, the whole frame is shown and LATCH has risen. -/
theorem runSequencer_inPulse (h : s.CommandDue a d) (hk : k = 51 ∨ k = 52) : ∃ v hold, runSequencer k s = .next v ∧
    (hold = [] ∨ hold = [.hold s.tLatchHold]) ∧ s.Shows (frameStart a d (frame a d) ++ .write .latch true :: hold) v := by
  have hlatHi := latHi_shows (v := 0) (d := d) (f := .data) (n := 0)
    (showing_configured h.configured (frameStart a d (frame a d)))
  rw [showing_showing] at hlatHi
  have hrun := (runSequencer_add (k := 1) (runSequencer_toLatHi h)).trans (runSequencer_succ hlatHi)
  obtain rfl | rfl := hk
  · exact ⟨_, [], hrun, .inl rfl, showing_withBlock_shows _ 0 d .data 0 Phase.latHold⟩
  · have hhold := (runSequencer_add (k := 1) hrun).trans (runSequencer_succ latHold_shows)
    rw [showing_showing, List.append_assoc] at hhold
    exact ⟨_, [.hold s.tLatchHold], hhold, .inr rfl, showing_withBlock_shows _ 0 d .data 0 Phase.latLoEnd⟩

/-! ### What is missing of the command -/

theorem runSequencer_growsTo (h : runSequencer k s = .next t) : ∃ es, t.trace = s.trace ++ es := by
  induction k generalizing s with
  | zero => cases h; exact ⟨[], by simp⟩
  | succ k ih =>
    obtain ⟨u, hu, h⟩ := runSequencer_succ_cases h
    obtain ⟨⟨es, hes⟩, -⟩ := sequencerStep_growsTo hu
    obtain ⟨es', hes'⟩ := ih h
    exact ⟨es ++ es', by rw [hes', hes, List.append_assoc]⟩

/-- Before its 53rd step a command is in progress, and what it has shown is a beginning of R75's events. -/
theorem runSequencer_unfinished (h : s.CommandDue a d) (hk : 1 ≤ k) (hk' : k ≤ 52) {es : List Event}
    (hrun : runSequencer k s = .next v) (hshows : s.Shows es v) :
    v.ph ≠ Phase.idle ∧ ∃ rest, frameEvents s.tLatchHold a d = es ++ rest := by
  obtain ⟨u, hu, hidle⟩ :=
    idleAgainInExactlyFiftyThreeSteps s a d h.idle h.waiting h.addr h.data h.configured k (by omega)
  cases hu.symm.trans hrun
  have hend := runSequencer_command h.configured h.idle h.waiting h.addr h.data
  rw [show 53 = k + (53 - k) by omega, runSequencer_add hrun, sendEvents_eq_frameEvents] at hend
  obtain ⟨rest, hrest⟩ := runSequencer_growsTo hend
  obtain ⟨htrace, -⟩ := hshows
  rw [htrace, List.append_assoc] at hrest
  exact ⟨hidle.not.mpr (by omega), rest, List.append_cancel_left hrest⟩

end

/-! ### The receivers -/

section
variable {o : Observation} {e : CommitEdge}

/-- A receiver that held no sample then holds those of the whole cells, and LATCH is low (R39). -/
theorem events_frameStart (a d : Byte) (bits : List Bool) (hnil : o.recv.samples = []) :
    (o.events e (frameStart a d bits)).lat = .lo ∧
      (o.events e (frameStart a d bits)).recv = { samples := bits.map levelOf, regs := o.recv.regs } := by
  have hstart : (o.event e (.accept a d)).event e (.write .latch false) = { o with lat := .lo } := by
    simp [Observation.event, Observation.drive, Receiver.onLatch_nil hnil]
  obtain ⟨hlat, hrecv⟩ := events_cells (o := { o with lat := .lo }) (e := e) bits
  rw [frameStart, Observation.events_cons, Observation.events_cons, hstart]
  exact ⟨hlat, by rw [hrecv, hnil, List.nil_append]⟩

/-- Up to its CLK_HI a cell has no rise of CLOCK (R39). -/
theorem events_cellStart_recv (b : Bool) {j : Nat} (hj : j ≤ 2) :
    (o.events e ((cellEvents b).take j)).recv = o.recv := by
  match j with
  | 0 => rfl
  | 1 | 2 => simp [cellEvents, Observation.event, Observation.drive]

end

section
variable {s v : State} {a d : Byte} {k : Nat}

/-- What R113's table starts from: what the receivers hold after `k` steps of `SEND a, d`. -/
structure State.ReceiversAfter (s : State) (a d : Byte) (k : Nat) (v : State) : Prop where
  noSample : k ≤ 5 → v.recvRise = s.recvRise ∧ v.recvFall = s.recvFall
  someSamples : 6 ≤ k → k ≤ 50 →
    v.recvRise.samples.length = (k - 2) / 4 ∧ v.recvFall.samples.length = (k - 2) / 4 ∧
      v.recvRise.regs = s.recvRise.regs ∧ v.recvFall.regs = s.recvFall.regs
  pulse : 51 ≤ k → v.recvRise.samples = [] ∧ v.recvRise.regs = s.recvRise.regs.memWrite (txAddr a) d ∧
    v.recvFall.samples.length = 12 ∧ v.recvFall.regs = s.recvFall.regs

/-- Up to LAT_HI the receivers hold one sample for each whole cell, and nothing is committed. -/
theorem State.ReceiversAfter.of_samples {samples : List Level} (hnil : ∀ e, (s.receiver e).samples = []) (hk : k ≤ 50)
    (hlength : samples.length = (k - 2) / 4)
    (hrecv : ∀ e, v.receiver e = { samples := samples, regs := (s.receiver e).regs }) : s.ReceiversAfter a d k v := by
  have hrise : v.recvRise = { samples := samples, regs := s.recvRise.regs } := hrecv .rise
  have hfall : v.recvFall = { samples := samples, regs := s.recvFall.regs } := hrecv .fall
  refine ⟨fun h => ?_, fun _ _ => ?_, by omega⟩
  · have hzero : samples = [] := List.length_eq_zero_iff.mp (by omega)
    have hnilRise : s.recvRise.samples = [] := hnil .rise
    have hnilFall : s.recvFall.samples = [] := hnil .fall
    rw [hrise, hfall, hzero]
    exact ⟨by rw [← hnilRise], by rw [← hnilFall]⟩
  · rw [hrise, hfall]
    exact ⟨hlength, hlength, rfl, rfl⟩

/-- After LAT_HI one receiver has committed the frame, and the other holds its twelve samples. -/
theorem State.ReceiversAfter.of_pulse (hnil : ∀ e, (s.receiver e).samples = []) (hk : k = 51 ∨ k = 52) {hold : List Event}
    (hhold : hold = [] ∨ hold = [.hold s.tLatchHold])
    (hshows : s.Shows (frameStart a d (frame a d) ++ .write .latch true :: hold) v) : s.ReceiversAfter a d k v := by
  obtain ⟨-, hobs⟩ := hshows
  have hrecv : ∀ e, v.receiver e = ({ samples := (frame a d).map levelOf, regs := (s.receiver e).regs } : Receiver).onLatch
      (e.seenIn .lo .hi) := by
    intro e
    obtain ⟨hlat, hsamples⟩ := events_frameStart (o := s.observed e) (e := e) a d (frame a d) (hnil e)
    rw [observed_recv] at hsamples
    rw [← observed_recv, hobs e, Observation.events_append, ← hsamples, ← hlat]
    obtain rfl | rfl := hhold <;> rfl
  have hrise : v.recvRise = _ := hrecv .rise
  have hfall : v.recvFall = _ := hrecv .fall
  refine ⟨by omega, by omega, fun _ => ?_⟩
  rw [hrise, hfall]
  refine ⟨rfl, ?_, by simp [CommitEdge.seenIn], rfl⟩
  simp [CommitEdge.seenIn, RecvRegs.commit_bits _ (frame_length a d)]

/-- What `k` steps of a command have shown: no `Done`, and what the receivers hold by them. -/
theorem runSequencer_shows (h : s.CommandDue a d) (hnil : ∀ e, (s.receiver e).samples = []) (hk : 1 ≤ k) (hk' : k ≤ 52) :
    ∃ v es, runSequencer k s = .next v ∧ s.Shows es v ∧ Event.done ∉ es ∧ s.ReceiversAfter a d k v := by
  obtain rfl | ⟨hlow, hhigh⟩ | hpulse : k = 1 ∨ (2 ≤ k ∧ k ≤ 50) ∨ (k = 51 ∨ k = 52) := by omega
  · have hshows := showing_withBlock_shows (s := s) [.accept a d] a d .addr 4 Phase.latLoStart
    refine ⟨_, _, runSequencer_succ (accept_shows h.idle h.waiting h.addr h.data), hshows, by simp,
      .of_samples (samples := []) hnil (by omega) rfl fun e => ?_⟩
    obtain ⟨-, hobs⟩ := hshows
    rw [← observed_recv, hobs e, ← hnil e]
    rfl
  · obtain ⟨v, bits, b, j, hrun, hlength, hj, htrace, hobs⟩ := runSequencer_inFrame h hlow hhigh
    refine ⟨v, _, hrun, ⟨htrace, hobs⟩, fun hdone => ?_,
      .of_samples (samples := bits.map levelOf) hnil hhigh (by rw [List.length_map, hlength]) fun e => ?_⟩
    · obtain hdone | hdone := List.mem_append.mp hdone
      · simp [frameStart, cellEvents] at hdone
      · simpa [cellEvents] using List.mem_of_mem_take hdone
    · obtain ⟨-, hsamples⟩ := events_frameStart (o := s.observed e) (e := e) a d bits (hnil e)
      rw [← observed_recv, hobs e, Observation.events_append, events_cellStart_recv b hj, hsamples, observed_recv]
  · obtain ⟨v, hold, hrun, hhold, hshows⟩ := runSequencer_inPulse h hpulse
    refine ⟨v, _, hrun, hshows, ?_, .of_pulse hnil hpulse hhold hshows⟩
    obtain rfl | rfl := hhold <;> simp [frameStart, cellEvents]

end

/-- Settles O42: the steps before the reset show a beginning of the command, and the reset keeps the receivers and leaves
the slot empty. -/
theorem resetDuringACommand : Obligations.ResetDuringACommand := by
  intro s a d hph hv ha hd hconf hrise hfall k hk hk'
  have hdue : s.CommandDue a d := ⟨hph, hv, ha, hd, hconf⟩
  have hnil : ∀ e, (s.receiver e).samples = []
    | .rise => hrise
    | .fall => hfall
  obtain ⟨v, es, hrun, hshows, hdone, hfirst, hframe, hpulse⟩ := runSequencer_shows hdue hnil hk hk'
  obtain ⟨hbusy, hrest⟩ := runSequencer_unfinished hdue hk hk' hrun hshows
  obtain ⟨htrace, -⟩ := hshows
  exact ⟨v, v.resetAction, es, hrun, hbusy, sequencerStep_rst, by rw [resetAction_trace, htrace], hdone, hrest, rfl, rfl,
    rfl, rfl, rfl, runSequencer_of_slotFree rfl, hfirst, hframe, hpulse⟩

end Sys2Proof.Machine

/-! SUPPORT. A whole host program under the default turn: pin setup, then one SEND after another (R116, R122). -/

namespace Sys2Proof.Machine

/-- The events of a host program's commands one after another, under the latch hold `t` (R75). -/
def programEvents (t : Nat) (program : List Command) : List Event :=
  program.flatMap fun c => frameEvents t c.addr c.data

section
variable {s t u : State}

theorem State.Shows.trans {es es' : List Event} (h : s.Shows es t) (h' : t.Shows es' u) : s.Shows (es ++ es') u := by
  obtain ⟨htrace, hobs⟩ := h
  obtain ⟨htrace', hobs'⟩ := h'
  exact ⟨by rw [htrace', htrace, List.append_assoc], fun e => by rw [hobs' e, hobs e, Observation.events_append]⟩

/-- The state in which a whole SEND of the host ends: the command's own, with the host's call returned (R72, R74). -/
def State.afterCall (c : Command) (s : State) : State :=
  ((s.postCommand c.addr c.data).afterSend c.addr c.data).returnCall

/-- A SEND that finds the slot free runs to its end: the host's write, the command's 53 steps, and the host's return. -/
theorem runSteps_call {c : Command} {rest : List Command} (hsched : s.schedule = []) (hconf : s.pinsConfigured = true)
    (hfree : s.slotFree = true) (hw : s.hostWaiting = false) (hprog : s.hostProgram = c :: rest) :
    runSteps 55 s = .next (s.afterCall c) := by
  obtain ⟨-, hph⟩ := (slotFree_iff s).mp hfree
  have hcommand := runSteps_command (s := s.postCommand c.addr c.data) hsched hconf hph rfl rfl rfl
  have hreturn := step_return (s := (s.postCommand c.addr c.data).afterSend c.addr c.data) hsched hconf hprog rfl rfl
  rw [show 55 = (53 + 1) + 1 from rfl, runSteps_succ_next (step_write hsched hconf hprog hfree hw),
    runSteps_add_next hcommand]
  exact runSteps_succ_next (k := 0) hreturn

theorem afterSend_shows (a d : Byte) : s.Shows (frameEvents s.tLatchHold a d) (s.afterSend a d) := by
  rw [← showing_withBlock_eq_afterSend, sendEvents_eq_frameEvents]
  exact showing_withBlock_shows _ 0 d .data 0 Phase.idle

/-! The host's two moves show nothing (R8). -/

theorem postCommand_shows (a d : Byte) : s.Shows [] (s.postCommand a d) := .of_same rfl fun _ => rfl
theorem returnCall_shows : s.Shows [] s.returnCall := .of_same rfl fun _ => rfl

theorem afterCall_shows (c : Command) : s.Shows (frameEvents s.tLatchHold c.addr c.data) (s.afterCall c) := by
  have hcommand := (postCommand_shows c.addr c.data).trans (afterSend_shows (s := s.postCommand _ _) c.addr c.data)
  exact List.append_nil (frameEvents _ _ _) ▸ hcommand.trans returnCall_shows

/-- From the first command on, the program's commands are carried out one after another, and the host is done. -/
theorem runSteps_program {program : List Command} (hsched : s.schedule = []) (hconf : s.pinsConfigured = true)
    (hfree : s.slotFree = true) (hw : s.hostWaiting = false) (hprog : s.hostProgram = program) :
    ∃ t, runSteps (55 * program.length) s = .next t ∧ t.Finished ∧ t.hostWaiting = false ∧
      s.Shows (programEvents s.tLatchHold program) t := by
  induction program generalizing s with
  | nil =>
    obtain ⟨hv, hph⟩ := (slotFree_iff s).mp hfree
    exact ⟨s, rfl, ⟨hph, hv, hprog⟩, hw, .of_same rfl fun _ => rfl⟩
  | cons c rest ih =>
    obtain ⟨t, hrun, hfinished, hwaiting, hshows⟩ :=
      ih (s := s.afterCall c) hsched hconf rfl rfl (congrArg List.tail hprog)
    refine ⟨t, ?_, hfinished, hwaiting, (afterCall_shows c).trans hshows⟩
    rw [List.length_cons, Nat.mul_succ, Nat.add_comm, runSteps_add_next (runSteps_call hsched hconf hfree hw hprog), hrun]

end

/-- A receiver that holds no sample makes one store of each command (R40). -/
theorem events_programEvents_recv {o : Observation} {e : CommitEdge} (t : Nat) (program : List Command)
    (hnil : o.recv.samples = []) : (o.events e (programEvents t program)).recv =
      { samples := [], regs := program.foldl (fun r c => r.memWrite (txAddr c.addr) c.data) o.recv.regs } := by
  induction program generalizing o with
  | nil => rw [List.foldl_nil, ← hnil]; rfl
  | cons c rest ih =>
    have hcommand := events_frameEvents_recv (e := e) t c.addr c.data hnil
    rw [programEvents, List.flatMap_cons, Observation.events_append, List.foldl_cons, ← programEvents,
      ih (by rw [hcommand]), hcommand]

/-- Stores to known registers are writes of their cells (R10, R28). -/
theorem foldl_memWrite_known (program : List Command) (m : List Host.Cell) :
    program.foldl (fun r c => r.memWrite (txAddr c.addr) c.data) (RecvRegs.known m) =
      .known (program.foldl (fun m c => cellsWrite m (txAddr c.addr).toNat c.data) m) :=
  List.foldl_hom RecvRegs.known fun _ _ => rfl

/-- Settles O58: after pin setup the commands run one after another, and the receivers see their events. -/
theorem hostProgramRunsToItsEnd : Obligations.HostProgramRunsToItsEnd := by
  intro program t
  have hsetup : step (State.launch program [] t) = .next (State.launch program [] t).configurePins := rfl
  obtain ⟨s, hrun, hfinished, hwaiting, htrace, hobs⟩ :=
    runSteps_program (s := (State.launch program [] t).configurePins) rfl rfl rfl rfl rfl
  refine ⟨s, ?_, hfinished, hwaiting, htrace, fun e => ?_⟩
  · rw [Nat.add_comm, runSteps_succ_next hsetup]
    exact hrun
  · have hnil : ((State.launch program [] t).configurePins.observed e).recv = Receiver.initial := by cases e <;> rfl
    rw [← observed_recv, hobs e, events_programEvents_recv _ _ (by rw [hnil]; rfl), hnil, ← foldl_memWrite_known]
    rfl

end Sys2Proof.Machine
